-- ==== Sys2Proof/Word.lean ====
section
/-! DEFINITION. The words of the TSKD block and their plainest readings: every quantity is unsigned (spec 00_scope R6). -/

namespace Sys2Proof

/-- A u8: a sample, an ADC reading, a key code, the output level. -/
abbrev Byte := BitVec 8

/-- A u16: an operand, a countdown, the response word. -/
abbrev Half := BitVec 16

/-- The 64-bit command word of format CMD (spec 30_encoding R60). -/
abbrev CmdWord := BitVec 64

end Sys2Proof
end

