-- ==== Sys2Proof/Syntax.lean ====
section
/-! DEFINITION. The nine commands (spec 30_encoding R62), the fields of a command word (R60) and the ways a word can be
illegal (R63). -/

namespace Sys2Proof

/-- The nine commands, one constructor per row of the opcode map (R62). Operands are u16 (R61), so every term is
well-formed: what can be ill-formed is a word, see `Sys2Proof.Fields.wellFormed`. -/
inductive Instr where
  /-- PLAY duration_ms, freqA_hz, freqB_hz (spec 41 R101) -/
  | play (durationMs freqA freqB : Half)
  /-- SLEEP n (spec 41 R104) -/
  | sleep (n : Half)
  /-- GETKEY (spec 42 R120) -/
  | getkey
  /-- ARM (spec 43 R140) -/
  | arm
  /-- DISARM (spec 43 R141) -/
  | disarm
  /-- LPTAKE (spec 43 R142) -/
  | lptake
  /-- TMASK (spec 43 R143) -/
  | tmask
  /-- TUNMASK (spec 43 R144) -/
  | tunmask
  /-- STAT (spec 43 R145) -/
  | stat
  deriving DecidableEq, Repr

/-- The five fields of format CMD (R60). -/
structure Fields where
  /-- OP, bits 63:56 -/
  op : Byte
  /-- A, bits 55:40 -/
  a : Half
  /-- B, bits 39:24 -/
  b : Half
  /-- C, bits 23:8 -/
  c : Half
  /-- Z, bits 7:0 -/
  z : Byte
  deriving DecidableEq, Repr

/-- Why a word is no command (R63), in the order of the checks of R64. All three are reported as ERR_ILLEGAL. -/
inductive Illegal where
  /-- check (1): field Z is not zero -/
  | reservedZ
  /-- check (2): OP is outside 0x01 to 0x09 -/
  | unknownOpcode
  /-- check (3): an operand field the command does not use is not zero -/
  | unusedOperand
  deriving DecidableEq, Repr

/-- What decoding a word gives: a command, or the reason it is none. -/
inductive Decoded where
  | instr (i : Instr)
  | illegal (why : Illegal)
  deriving DecidableEq, Repr

end Sys2Proof
end

