-- ==== Sys2Proof/WellFormed.lean ====
section
/-! DEFINITION. The checks a command word passes before it is a command (spec 30_encoding R63, and (1) to (3) of R64). -/

namespace Sys2Proof

/-- Check (1) of R64: field Z is zero. -/
def Fields.zClear (f : Fields) : Bool := f.z == 0

/-- Check (2) of R64: OP is one of 0x01 to 0x09. -/
def Fields.opAssigned (f : Fields) : Bool := decide (1 ≤ f.op.toNat) && decide (f.op.toNat ≤ 9)

/-- Check (3) of R64: the operand fields OP does not use are zero. PLAY (0x01) uses A, B and C; SLEEP (0x02) uses A. -/
def Fields.unusedClear (f : Fields) : Bool :=
  if f.op == 1 then true
  else if f.op == 2 then f.b == 0 && f.c == 0
  else f.a == 0 && f.b == 0 && f.c == 0

/-- A legal command word's fields (R63). -/
def Fields.wellFormed (f : Fields) : Bool := f.zClear && f.opAssigned && f.unusedClear

end Sys2Proof
end

