-- ==== Sys2Proof/Decode.lean ====
section
/-! DEFINITION. From a 64-bit command word to a command or a reason, and back (spec 30_encoding R60 to R65, 20_memory
R47). The decoder never finds a length: every command is one word (R60). -/

namespace Sys2Proof

/-! ### Fields of a word -/

/-- The fields of a word, by the bit positions of R60. -/
def fieldsOf (w : CmdWord) : Fields where
  op := w.extractLsb' 56 8
  a := w.extractLsb' 40 16
  b := w.extractLsb' 24 16
  c := w.extractLsb' 8 16
  z := w.extractLsb' 0 8

/-- The word with these fields: `OP ++ A ++ B ++ C ++ Z`, OP in the high bits (R60). -/
def wordOf (f : Fields) : CmdWord := f.op ++ f.a ++ f.b ++ f.c ++ f.z

/-! ### Decoding -/

/-- Check (3) of R64: the command `i` if its unused operand fields are zero. -/
def requireClear (clear : Bool) (i : Instr) : Decoded :=
  if clear then .instr i else .illegal .unusedOperand

/-- A command without operands: A, B and C must be zero (R63). -/
def decodeBare (f : Fields) (i : Instr) : Decoded :=
  requireClear (f.a == 0 && f.b == 0 && f.c == 0) i

/-- The opcode map (R62) under the check order of R64. -/
def decodeFields (f : Fields) : Decoded :=
  if f.z == 0 then
    match f.op.toNat with
    | 0x01 => .instr (.play f.a f.b f.c)
    | 0x02 => requireClear (f.b == 0 && f.c == 0) (.sleep f.a)
    | 0x03 => decodeBare f .getkey
    | 0x04 => decodeBare f .arm
    | 0x05 => decodeBare f .disarm
    | 0x06 => decodeBare f .lptake
    | 0x07 => decodeBare f .tmask
    | 0x08 => decodeBare f .tunmask
    | 0x09 => decodeBare f .stat
    | _ => .illegal .unknownOpcode
  else .illegal .reservedZ

/-- Decoding is total: every word is a command or illegal for a named reason (R63). -/
def decode (w : CmdWord) : Decoded := decodeFields (fieldsOf w)

/-! ### A word as bytes -/

/-- Eight bytes, most significant first, as a command word (spec 20_memory R47: byte 0 is bits 63:56). -/
def wordOfBytes (b0 b1 b2 b3 b4 b5 b6 b7 : Byte) : CmdWord :=
  b0 ++ b1 ++ b2 ++ b3 ++ b4 ++ b5 ++ b6 ++ b7

/-- The bytes of a command word, most significant first (spec 20_memory R47). -/
def bytesOfWord (w : CmdWord) : List Byte :=
  [w.extractLsb' 56 8, w.extractLsb' 48 8, w.extractLsb' 40 8, w.extractLsb' 32 8,
   w.extractLsb' 24 8, w.extractLsb' 16 8, w.extractLsb' 8 8, w.extractLsb' 0 8]

/-- Decoding a serial carrier's bytes: the first eight as one word, and the bytes that follow; `none` where fewer than
eight bytes stand, which is no word at all (R60). -/
def decodeBytes : List Byte → Option (Decoded × List Byte)
  | b0 :: b1 :: b2 :: b3 :: b4 :: b5 :: b6 :: b7 :: rest =>
    some (decode (wordOfBytes b0 b1 b2 b3 b4 b5 b6 b7), rest)
  | _ => none

/-! ### Encoding -/

/-- OP of each command (R62). -/
def opcode : Instr → Byte
  | .play _ _ _ => 0x01
  | .sleep _ => 0x02
  | .getkey => 0x03
  | .arm => 0x04
  | .disarm => 0x05
  | .lptake => 0x06
  | .tmask => 0x07
  | .tunmask => 0x08
  | .stat => 0x09

/-- The fields of a command: operands as they are (R61), every other field zero (R62). -/
def instrFields (i : Instr) : Fields :=
  match i with
  | .play a b c => { op := opcode i, a := a, b := b, c := c, z := 0 }
  | .sleep a => { op := opcode i, a := a, b := 0, c := 0, z := 0 }
  | _ => { op := opcode i, a := 0, b := 0, c := 0, z := 0 }

/-- The word of a command. -/
def encode (i : Instr) : CmdWord := wordOf (instrFields i)

/-- The bytes of a command, opcode first (spec 20_memory R47). -/
def encodeBytes (i : Instr) : List Byte := bytesOfWord (encode i)

/-! ### The opcode map as masks -/

/-- The `mask` column of R62's table. -/
def rowMask : Instr → CmdWord
  | .play _ _ _ => 0xFF000000000000FF
  | .sleep _ => 0xFF0000FFFFFFFFFF
  | .getkey => 0xFFFFFFFFFFFFFFFF
  | .arm => 0xFFFFFFFFFFFFFFFF
  | .disarm => 0xFFFFFFFFFFFFFFFF
  | .lptake => 0xFFFFFFFFFFFFFFFF
  | .tmask => 0xFFFFFFFFFFFFFFFF
  | .tunmask => 0xFFFFFFFFFFFFFFFF
  | .stat => 0xFFFFFFFFFFFFFFFF

/-- The `match` column of R62's table. -/
def rowMatch : Instr → CmdWord
  | .play _ _ _ => 0x0100000000000000
  | .sleep _ => 0x0200000000000000
  | .getkey => 0x0300000000000000
  | .arm => 0x0400000000000000
  | .disarm => 0x0500000000000000
  | .lptake => 0x0600000000000000
  | .tmask => 0x0700000000000000
  | .tunmask => 0x0800000000000000
  | .stat => 0x0900000000000000

/-- A word `w` is the command of a row when `w AND mask = match` (R62). -/
def matchesRow (i : Instr) (w : CmdWord) : Bool := w &&& rowMask i == rowMatch i

/-! ### The opcode table's numbering -/

/-- The command the decoder reads from a table row's bits: the table numbers a word's bits as R60 does, so a row's
number is the word. -/
def decodeTableWord (nbits w : Nat) : Option Instr :=
  if nbits ≤ 64 ∧ w < 2 ^ nbits then
    match decode (BitVec.ofNat 64 w) with
    | .instr i => some i
    | .illegal _ => none
  else none

end Sys2Proof
end

