-- ==== Sys2Proof/Config.lean ====
section
/-! DEFINITION. What an implementation fixes (the configuration of spec 00_scope R1, its well-formedness, the reference
instance REF of R2), the environment's moves at the block's ports (spec 10_state R30, 00_scope R3), and the free values. -/

namespace Sys2Proof

/-- How two samples become one level (parameter MIX of R1). Only `avg` is well-formed (spec 92 D9, 93 B11). -/
inductive Mix where
  | avg
  | sum
  deriving DecidableEq, Repr

/-- One entry of BANDS: the inclusive bounds and the key code (spec 20_memory R44). -/
structure Band where
  lo : Byte
  hi : Byte
  key : Byte
  deriving DecidableEq, Repr

/-- The parameters of R1 as raw data. The derived ones (TLS, W_STEP, STEP_MAX, W_PHASE, K) are functions below. -/
structure Params where
  /-- N_TAB, the waveform table's length. -/
  nTab : Nat
  /-- W_SAMPLE, the width of a sample and of LEVEL. -/
  wSample : Nat
  /-- MID, the level that is silence. -/
  mid : Byte
  /-- WAVE, the waveform table (spec 20_memory R41). -/
  wave : List Byte
  /-- FRAC, the width of the table index's fraction. -/
  frac : Nat
  /-- F_TICK, carrier ticks per second. -/
  fTick : Nat
  /-- F_AUDIO_MAX, informative (spec 92 D31). -/
  fAudioMax : Nat
  /-- MIX. -/
  mix : Mix
  /-- LONGPRESS_TIME, in milliseconds. -/
  longpressTime : Half
  /-- DEBOUNCE_MS, in milliseconds. -/
  debounceMs : Half
  /-- ADC_FLOOR, the noise floor. -/
  adcFloor : Byte
  /-- N_KEYS. -/
  nKeys : Nat
  /-- BANDS, the ordered band table (spec 20_memory R44). -/
  bands : List Band
  deriving DecidableEq, Repr

/-- TLS = N_TAB * 2^FRAC, the modulus of the phase (R1). -/
def Params.tls (p : Params) : Nat := p.nTab * 2 ^ p.frac

/-- STEP_MAX = TLS - 1 (R1). -/
def Params.stepMax (p : Params) : Nat := p.tls - 1

/-- W_STEP = 8 + FRAC (R1). -/
def Params.wStep (p : Params) : Nat := 8 + p.frac

/-- W_PHASE = 9 + FRAC (R1). -/
def Params.wPhase (p : Params) : Nat := 9 + p.frac

/-- K = F_TICK div 1000, tick steps per millisecond (R1). -/
def Params.ticksPerMs (p : Params) : Nat := p.fTick / 1000

/-- The table rotated by half a cycle: entry `i` is `WAVE[(i + 128) mod 256]`. -/
def Params.waveOpposite (p : Params) : List Byte := p.wave.drop 128 ++ p.wave.take 128

/-- Conditions (a) to (c) of spec 20_memory R41: 256 entries, `WAVE[0] = MID`, point symmetry about the midpoint. -/
def Params.waveWf (p : Params) : Bool :=
  p.wave.length == 256 && p.wave.head? == some p.mid &&
    (List.zipWith (fun x y => x.toNat + y.toNat) p.wave p.waveOpposite).all (· == 2 * p.mid.toNat)

/-- Each band starts one reading above the end of the band before it (spec 20_memory R44(c)). -/
def bandsContiguous : List Band → Bool
  | b :: c :: rest => c.lo.toNat == b.hi.toNat + 1 && bandsContiguous (c :: rest)
  | _ => true

/-- Conditions (a) to (d) of spec 20_memory R44. -/
def Params.bandsWf (p : Params) : Bool :=
  p.bands.length == p.nKeys &&
    p.bands.all (fun b => decide (b.lo.toNat ≤ b.hi.toNat) && decide (p.adcFloor.toNat ≤ b.lo.toNat)) &&
    bandsContiguous p.bands &&
    (List.range p.nKeys).all (fun k => (p.bands.filter (fun b => b.key.toNat == k + 1)).length == 1)

/-- The constraints of the table of R1. -/
def Params.wf (p : Params) : Bool :=
  p.nTab == 256 && p.wSample == 8 && decide (1 ≤ p.mid.toNat) && decide (p.mid.toNat ≤ 254) && p.waveWf &&
    decide (p.frac ≤ 23) && decide (1000 ≤ p.fTick) && p.mix == .avg && decide (1 ≤ p.longpressTime.toNat) &&
    p.nKeys == 13 && p.bandsWf

/-- A well-formed configuration: the model is defined for no other (R1; spec 60_exceptions R216, last row). -/
structure Config extends Params where
  ok : toParams.wf = true
  deriving DecidableEq, Repr

/-! ### The reference configuration REF -/

/-- Rows r = 0 to 3 of the table of R42. -/
def waveRef0 : List Byte :=
  [128, 131, 134, 137, 140, 144, 147, 150, 153, 156, 159, 162, 165, 168, 171, 174] ++
  [177, 179, 182, 185, 188, 191, 193, 196, 199, 201, 204, 206, 209, 211, 213, 216] ++
  [218, 220, 222, 224, 226, 228, 230, 232, 234, 235, 237, 239, 240, 241, 243, 244] ++
  [245, 246, 248, 249, 250, 250, 251, 252, 253, 253, 254, 254, 254, 255, 255, 255]

/-- Rows r = 4 to 7 of the table of R42. -/
def waveRef1 : List Byte :=
  [255, 255, 255, 255, 254, 254, 254, 253, 253, 252, 251, 250, 250, 249, 248, 246] ++
  [245, 244, 243, 241, 240, 239, 237, 235, 234, 232, 230, 228, 226, 224, 222, 220] ++
  [218, 216, 213, 211, 209, 206, 204, 201, 199, 196, 193, 191, 188, 185, 182, 179] ++
  [177, 174, 171, 168, 165, 162, 159, 156, 153, 150, 147, 144, 140, 137, 134, 131]

/-- Rows r = 8 to 11 of the table of R42. -/
def waveRef2 : List Byte :=
  [128, 125, 122, 119, 116, 112, 109, 106, 103, 100, 97, 94, 91, 88, 85, 82] ++
  [79, 77, 74, 71, 68, 65, 63, 60, 57, 55, 52, 50, 47, 45, 43, 40] ++
  [38, 36, 34, 32, 30, 28, 26, 24, 22, 21, 19, 17, 16, 15, 13, 12] ++
  [11, 10, 8, 7, 6, 6, 5, 4, 3, 3, 2, 2, 2, 1, 1, 1]

/-- Rows r = 12 to 15 of the table of R42. -/
def waveRef3 : List Byte :=
  [1, 1, 1, 1, 2, 2, 2, 3, 3, 4, 5, 6, 6, 7, 8, 10] ++
  [11, 12, 13, 15, 16, 17, 19, 21, 22, 24, 26, 28, 30, 32, 34, 36] ++
  [38, 40, 43, 45, 47, 50, 52, 55, 57, 60, 63, 65, 68, 71, 74, 77] ++
  [79, 82, 85, 88, 91, 94, 97, 100, 103, 106, 109, 112, 116, 119, 122, 125]

/-- WAVE under REF (spec 20_memory R42). -/
def waveRef : List Byte := waveRef0 ++ waveRef1 ++ waveRef2 ++ waveRef3

/-- Band `j` of REF is `(8 + 19j, 26 + 19j, j + 1)` (spec 20_memory R45). -/
def bandsRef : List Band :=
  (List.range 13).map fun j =>
    { lo := BitVec.ofNat 8 (8 + 19 * j), hi := BitVec.ofNat 8 (26 + 19 * j), key := BitVec.ofNat 8 (j + 1) }

/-- The parameters of REF: the column REF of R1's table (R2). -/
def Params.ref : Params where
  nTab := 256
  wSample := 8
  mid := 128
  wave := waveRef
  frac := 7
  fTick := 32000
  fAudioMax := 3000
  mix := .avg
  longpressTime := 2000
  debounceMs := 20
  adcFloor := 8
  nKeys := 13
  bands := bandsRef

/-- REF, the reference configuration (R2). -/
def Config.ref : Config where
  toParams := Params.ref
  ok := by decide +kernel

/-! ### The environment -/

/-- The four agents of R3, and the RESET port. -/
inductive Agent where
  | tickAgent
  | seqAgent
  | adcAgent
  | hostAgent
  | resetPort
  deriving DecidableEq, Repr

/-- One move offered to the machine: an event at an input port of spec 10_state R30, or the turn of an agent. -/
inductive Event where
  /-- one carrier tick event at port `TICK` (spec 60_exceptions R204) -/
  | tick
  /-- `ADC_DONE` with the value of the conversion (spec 42_key_decoder R121) -/
  | adcDone (v : Byte)
  /-- the host presents a word at port `CMD` (spec 30_encoding R67) -/
  | command (w : CmdWord)
  /-- the host takes the response (R3) -/
  | takeResponse
  /-- the sequencer's own turn while a command is in progress (spec 41 R103, 42 R122, R124) -/
  | seqTurn
  /-- `RESET` (spec 70_reset_and_hazards R230) -/
  | reset
  deriving DecidableEq, Repr, Inhabited

/-- Whose step a move is (R3). An accept is a step of the sequencer on the word the host presents. -/
def Event.agent : Event → Agent
  | .tick => .tickAgent
  | .adcDone _ => .adcAgent
  | .command _ => .seqAgent
  | .takeResponse => .hostAgent
  | .seqTurn => .seqAgent
  | .reset => .resetPort

/-! ### Free values -/

/-- FREE VALUE. The environment's move number `k` where no move is listed in State: the order of the agents, the values
conversions return and the words presented are not the block's to say (spec 10_state R32; log 2). -/
opaque Config.freeEvent : Nat → Event

/-- FREE VALUE. What a read of WAVE at `k` beyond its 256 entries would give: the spec proves that no such read happens
and states no value for it (spec 20_memory R43; log 6). -/
opaque Config.waveBeyond : Nat → Byte

end Sys2Proof
end

