-- ==== Sys2Proof/Machine/State.lean ====
section
/-! DEFINITION. The block's state register by register (spec 10_state), why a step can stop, and the state after reset
(spec 10_state R31, 70_reset_and_hazards R230). -/

namespace Sys2Proof.Machine

/-- SEQ, the sequencer state (spec 10_state R22). -/
inductive Seq where
  /-- no command in progress -/
  | idle
  /-- PLAY waits out its duration -/
  | playWait
  /-- SLEEP waits -/
  | sleepWait
  /-- GETKEY waits for its first conversion -/
  | gkConv1
  /-- GETKEY waits out the debounce interval -/
  | gkDebounce
  /-- GETKEY waits for its second conversion -/
  | gkConv2
  deriving DecidableEq, Repr

/-- The error codes a response can carry (spec 60_exceptions R200, 93 B3: exactly three). -/
inductive Err where
  | ok
  /-- the word is not one of the nine commands (spec 60_exceptions R201) -/
  | illegal
  /-- a PLAY frequency has no representable step (spec 60_exceptions R202) -/
  | range
  deriving DecidableEq, Repr

/-- Why a step could end in a fault: it cannot. "No case here is a fault": every state has a defined successor for every
enabled step (spec 60_exceptions R216), so the type has no constructor, nothing raises one, and no step faults. -/
inductive Fault where
  deriving DecidableEq, Repr

/-- Why the machine can refuse. -/
inductive Refusal where
  /-- An instruction without a meaning, raised by its arm of `exec` alone. No arm raises it: all nine have a meaning. Safe. -/
  | notModelled (mnemonic : String)
  /-- A configuration that is not well-formed, raised by `powerOn` alone, before reset: "the model refuses to build"
  (spec 00_scope R1, 60_exceptions R216). Safe. -/
  | illFormedConfig
  deriving DecidableEq, Repr

/-- The whole state. The first four groups are the registers of spec 10_state; then the boundary's one output event; then
the model's own fields. PHASE, STEP and TICKCNT have widths that depend on the configuration and are naturals, kept
in range by `State.Inv` (log 7). -/
structure State where
  /-- PHASE_A (R10) -/
  phaseA : Nat
  /-- PHASE_B (R10) -/
  phaseB : Nat
  /-- STEP_A (R11) -/
  stepA : Nat
  /-- STEP_B (R11) -/
  stepB : Nat
  /-- OUT_EN (R13) -/
  outEn : Bool
  /-- LEVEL (R14) -/
  level : Byte
  /-- TICKCNT (R15) -/
  tickCnt : Nat
  /-- MS_FLAG (R16) -/
  msFlag : Bool
  /-- LP_ARMED (R17) -/
  lpArmed : Bool
  /-- LP_CNT (R18) -/
  lpCnt : Half
  /-- LP_FLAG (R19) -/
  lpFlag : Bool
  /-- TMASK (R20) -/
  tmask : Bool
  /-- TPEND (R21) -/
  tpend : Bool
  /-- SEQ (R22) -/
  seq : Seq
  /-- N (R23) -/
  n : Half
  /-- S1 (R24) -/
  s1 : Byte
  /-- S2 (R24) -/
  s2 : Byte
  /-- KEY (R25) -/
  key : Byte
  /-- ADC_BUSY (R26) -/
  adcBusy : Bool
  /-- ADC_DATA (R26) -/
  adcData : Byte
  /-- RESP (R27) -/
  resp : Half
  /-- RESP_VALID (R27) -/
  respValid : Bool
  /-- the `ADC_START` port event of the step just taken (R30, spec 42 R121; log 11) -/
  adcStartOut : Bool
  /-- the configuration (spec 00_scope R1); no step writes it (log 1) -/
  cfg : Config
  /-- the environment's coming moves, the first one next (log 2) -/
  inputs : List Event
  /-- how many moves were drawn from `Config.freeEvent` (log 2) -/
  draws : Nat
  deriving DecidableEq, Repr

/-- The reset values of R31 under a configuration, with nothing listed for the environment. -/
def State.ofConfig (c : Config) : State where
  phaseA := 0
  phaseB := 0
  stepA := 0
  stepB := 0
  outEn := false
  level := c.mid
  tickCnt := 0
  msFlag := false
  lpArmed := false
  lpCnt := c.longpressTime
  lpFlag := false
  tmask := false
  tpend := false
  seq := .idle
  n := 0
  s1 := 0
  s2 := 0
  key := 0
  adcBusy := false
  adcData := 0
  resp := 0
  respValid := false
  adcStartOut := false
  cfg := c
  inputs := []
  draws := 0

/-- The machine right after reset, under the reference configuration (log 1). -/
def State.reset : State := State.ofConfig Config.ref

end Sys2Proof.Machine
end

