-- ==== Sys2Proof/Machine/Ops.lean ====
section
/-! DEFINITION. The named operations every rule is written with: the response and the rejection (the block's only
exception entry, spec 60_exceptions R200), the start and the completion of a conversion, the table reads, entering a
wait, reset, and powering on a configuration. -/

namespace Sys2Proof.Machine

/-! ### SEQ -/

/-- The numbers of the sequencer states (spec 10_state R22); no port shows them. -/
def Seq.number : Seq → Nat
  | .idle => 0
  | .playWait => 1
  | .sleepWait => 2
  | .gkConv1 => 3
  | .gkDebounce => 4
  | .gkConv2 => 5

/-- The three states the poll step leaves (spec 41 R103). -/
def Seq.isWait : Seq → Bool
  | .playWait => true
  | .sleepWait => true
  | .gkDebounce => true
  | _ => false

/-- `CMD_READY = (SEQ = IDLE)` (spec 10_state R22, R30). -/
def State.cmdReady (s : State) : Bool := s.seq == .idle

/-! ### Responses and rejections -/

/-- The ERR byte (spec 30_encoding R65). -/
def Err.code : Err → Byte
  | .ok => 0x00
  | .illegal => 0x01
  | .range => 0x02

/-- The response word, ERR in bits 15:8 and VAL in bits 7:0 (spec 30_encoding R65). -/
def respWord (e : Err) (v : Byte) : Half := e.code ++ v

/-- The first write of every accept step: `RESP_VALID <- 0` (spec 10_state R27, 30_encoding R67). -/
def State.beginAccept (s : State) : State := { s with respValid := false }

/-- `respond(err, val)`: `RESP <- err ++ val; RESP_VALID <- 1; SEQ <- IDLE` (spec 00_scope R6). -/
def State.respond (s : State) (e : Err) (v : Byte) : State :=
  { s with resp := respWord e v, respValid := true, seq := .idle }

/-- `reject ERR_x`: `respond(ERR_x, 0)` and nothing else (spec 00_scope R6, 60_exceptions R201, R202). This is the one
way an accept step takes an exception: nothing is saved, there is no handler and no return (R206, R207). -/
def State.reject (s : State) (e : Err) : State := s.respond e 0

/-! ### Waits and conversions -/

/-- Entering a wait of `m` milliseconds: `N <- m; SEQ <- q` (spec 41 R101, R104, 42 R122). -/
def State.await (s : State) (m : Half) (q : Seq) : State := { s with n := m, seq := q }

/-- `AdcStart()`: `ADC_BUSY <- 1` and the `ADC_START` port event (spec 42 R121). -/
def State.adcStart (s : State) : State := { s with adcBusy := true, adcStartOut := true }

/-- The ADC agent's completion with the value `v`, enabled while ADC_BUSY = 1; a late `ADC_DONE` finds no enabled step
and is ignored (spec 42 R121, 70 R230). -/
def State.adcDone (s : State) (v : Byte) : State :=
  if s.adcBusy then { s with adcData := v, adcBusy := false } else s

/-- The output event of the step before is over when the next step begins (log 11). -/
def State.quiet (s : State) : State := { s with adcStartOut := false }

/-! ### Table reads -/

/-- `WaveRead(i) = WAVE[i]` (spec 20_memory R43). The table has 256 entries and every read of a reachable state is
inside it; beyond, the value is free (log 6). -/
def waveRead (c : Config) (i : Nat) : Byte :=
  match c.wave[i]? with
  | some v => v
  | none => Config.waveBeyond i

/-- The table index of a phase, `PHASE_x >> FRAC` (spec 20_memory R43, 40 R81). -/
def waveIndex (c : Config) (phase : Nat) : Nat := phase / 2 ^ c.frac

/-- `BandRead(j)`, the `j`-th triple (spec 00_scope R6, 20_memory R44). -/
def bandRead (c : Config) (j : Nat) : Option Band := c.bands[j]?

/-! ### Reset and power-on -/

/-- The Reset step (spec 70 R230): every register of the block at its reset value. The configuration and the
environment's coming moves are not state of the block. -/
def State.resetBlock (s : State) : State :=
  { State.ofConfig s.cfg with inputs := s.inputs, draws := s.draws }

/-- Building the machine from raw parameters (spec 00_scope R1): a configuration that is not well-formed is refused,
not given a meaning. -/
def powerOn (p : Params) : Host.Outcome State Fault Refusal :=
  if h : p.wf = true then .next (State.ofConfig { toParams := p, ok := h })
  else .refused .illFormedConfig

end Sys2Proof.Machine
end

