-- ==== Sys2Proof/Machine/Key.lean ====
section
/-! DEFINITION. GETKEY: the key decoder and its debounce state machine (spec 42_key_decoder). -/

namespace Sys2Proof.Machine

/-- The scan of the bands in table order, both bounds inclusive; outside all bands, no key (R125). -/
def scanBands : List Band → Byte → Byte
  | [], _ => 0
  | b :: rest, r => if b.lo.toNat ≤ r.toNat ∧ r.toNat ≤ b.hi.toNat then b.key else scanBands rest r

/-- `classify(r)` (R125): below the noise floor, no key; else the first band that holds the reading. -/
def classify (c : Config) (r : Byte) : Byte :=
  if r.toNat < c.adcFloor.toNat then 0 else scanBands c.bands r

/-- The debounce is over: `S1 <- ADC_DATA; AdcStart(); SEQ <- GK_CONV2` (R123, and R122 where DEBOUNCE_MS = 0). -/
def State.secondConversion (s : State) : State :=
  { { s with s1 := s.adcData }.adcStart with seq := .gkConv2 }

/-- The GK_CONV1 step, enabled when ADC_BUSY = 0 (R122). -/
def State.conv1Step (s : State) : State :=
  if s.cfg.debounceMs == 0 then s.secondConversion else s.await s.cfg.debounceMs .gkDebounce

/-- The start of an attempt: `AdcStart(); SEQ <- GK_CONV1` (R120, and R124's retry). -/
def State.firstConversion (s : State) : State := { s.adcStart with seq := .gkConv1 }

/-- The GK_CONV2 step, enabled when ADC_BUSY = 0: compare, then retry or classify and respond (R124). -/
def State.conv2Step (s : State) : State :=
  if s.s1 == s.adcData then
    { s with s2 := s.adcData, key := classify s.cfg s.adcData }.respond .ok (classify s.cfg s.adcData)
  else { s with s2 := s.adcData }.firstConversion

/-- GETKEY's accept step (R120). -/
def execGetkey (s : State) : Host.Outcome State Fault Refusal :=
  .next s.beginAccept.firstConversion

end Sys2Proof.Machine
end

