-- ==== Sys2Proof/Machine/Flags.lean ====
section
/-! DEFINITION. The two latched flags (spec 10_state R16, R19), the sequencer's test of MS_FLAG, and the status view
(spec 10_state R28). -/

namespace Sys2Proof.Machine

/-- The tick step's raise of MS_FLAG; raising a set flag leaves it set (spec 10_state R16). -/
def State.raiseMs (s : State) : State := { s with msFlag := true }

/-- The poll step's clear of MS_FLAG (spec 41 R103). -/
def State.takeMs (s : State) : State := { s with msFlag := false }

/-- The tick step's raise of LP_FLAG; raising a set flag leaves it set (spec 10_state R19). -/
def State.raiseLp (s : State) : State := { s with lpFlag := true }

/-- The clear of LP_FLAG by LPTAKE, ARM and DISARM (spec 10_state R19). -/
def State.clearLp (s : State) : State := { s with lpFlag := false }

/-- One flag as a response value. -/
def flagByte (b : Bool) : Byte := if b then 1 else 0

/-- One flag as bit `i` of the status byte. -/
def statBit (b : Bool) (i : Nat) : Byte := flagByte b <<< i

/-- STAT (spec 10_state R28, 43 R145): OUT_EN, MS_FLAG, LP_ARMED, LP_FLAG, TMASK, TPEND in bits 0 to 5, bits 7:6 zero. -/
def State.statByte (s : State) : Byte :=
  statBit s.outEn 0 ||| statBit s.msFlag 1 ||| statBit s.lpArmed 2 ||| statBit s.lpFlag 3 ||| statBit s.tmask 4 |||
    statBit s.tpend 5

end Sys2Proof.Machine
end

