-- ==== Sys2Proof/Machine/LongPress.lean ====
section
/-! DEFINITION. The foreground side of the long-press arbiter: ARM, DISARM, LPTAKE (spec 43 R140 to R142). -/

namespace Sys2Proof.Machine

/-- The controlled handshake ARM and DISARM share: the countdown at the threshold, no flag left (R140, R141). -/
def State.restartLp (s : State) : State := { s with lpCnt := s.cfg.longpressTime }.clearLp

/-- ARM's accept step (R140). -/
def execArm (s : State) : Host.Outcome State Fault Refusal :=
  .next ({ s.beginAccept.restartLp with lpArmed := true }.respond .ok 0)

/-- DISARM's accept step (R141). -/
def execDisarm (s : State) : Host.Outcome State Fault Refusal :=
  .next ({ s.beginAccept.restartLp with lpArmed := false }.respond .ok 0)

/-- LPTAKE's accept step, the atomic read-and-clear of LP_FLAG (R142). -/
def execLptake (s : State) : Host.Outcome State Fault Refusal :=
  .next (s.beginAccept.clearLp.respond .ok (flagByte s.lpFlag))

end Sys2Proof.Machine
end

