-- ==== Sys2Proof/Machine/Tick.lean ====
section
/-! DEFINITION. The tick step, the block's one autonomous operation (spec 40_tick_step), and the tick event with its gate
(spec 60_exceptions R204). -/

namespace Sys2Proof.Machine

/-! ### The oscillator part (R81 to R84) -/

/-- `(sA + sB) >> 1`, the sum in more than 8 bits (R82). -/
def mixSamples (sA sB : Byte) : Byte := BitVec.ofNat 8 ((sA.toNat + sB.toNat) / 2)

/-- `Advance(p, s)`: the sum, less TLS once where it has reached TLS (R83). -/
def advance (c : Config) (p s : Nat) : Nat := if c.tls ≤ p + s then p + s - c.tls else p + s

/-- The level the current phases give: both samples, mixed (R81, R82). -/
def State.mixedLevel (s : State) : Byte :=
  mixSamples (waveRead s.cfg (waveIndex s.cfg s.phaseA)) (waveRead s.cfg (waveIndex s.cfg s.phaseB))

/-- Part (1) of R80: sample, then advance (R81 to R83); while disabled, only pin LEVEL to MID (R84). -/
def State.oscPart (s : State) : State :=
  if s.outEn then
    { s with
      level := s.mixedLevel
      phaseA := advance s.cfg s.phaseA s.stepA
      phaseB := advance s.cfg s.phaseB s.stepB }
  else { s with level := s.cfg.mid }

/-! ### The clock and long-press parts (R85, R86) -/

/-- Part (3) of R80, in a tick step that raised MS_FLAG (R86). -/
def State.lpPart (s : State) : State :=
  if s.lpArmed then
    if s.lpCnt - 1 == 0 then { s with lpCnt := s.cfg.longpressTime }.raiseLp
    else { s with lpCnt := s.lpCnt - 1 }
  else s

/-- The next tick step brings TICKCNT to K (R85). -/
def State.clockWraps (s : State) : Bool := s.tickCnt + 1 == s.cfg.ticksPerMs

/-- Parts (2) and (3) of R80 (R85, R86). -/
def State.clockPart (s : State) : State :=
  if s.clockWraps then { s with tickCnt := 0 }.raiseMs.lpPart
  else { s with tickCnt := s.tickCnt + 1 }

/-- The tick step (R80). -/
def State.tickStep (s : State) : State := s.oscPart.clockPart

/-! ### The tick event (spec 60_exceptions R204) -/

/-- A tick event: the tick step, or one remembered event while the gate is closed. -/
def State.tickEvent (s : State) : State :=
  if s.tmask then { s with tpend := true } else s.tickStep

end Sys2Proof.Machine
end

