-- ==== Sys2Proof/Machine/System.lean ====
section
/-! DEFINITION. The tick gate and the status read: TMASK, TUNMASK, STAT (spec 43 R143 to R145). -/

namespace Sys2Proof.Machine

/-- TMASK's accept step: `TMASK <- 1` (R143). -/
def execTmask (s : State) : Host.Outcome State Fault Refusal :=
  .next ({ s.beginAccept with tmask := true }.respond .ok 0)

/-- `TMASK <- 0`, and the one remembered tick step, if any, in the same step (R144). -/
def State.openGate (s : State) : State :=
  if s.tpend then { s with tmask := false, tpend := false }.tickStep else { s with tmask := false }

/-- TUNMASK's accept step (R144). -/
def execTunmask (s : State) : Host.Outcome State Fault Refusal :=
  .next (s.beginAccept.openGate.respond .ok 0)

/-- STAT's accept step: the status byte, nothing else changed (R145). -/
def execStat (s : State) : Host.Outcome State Fault Refusal :=
  .next (s.beginAccept.respond .ok s.statByte)

end Sys2Proof.Machine
end

