-- ==== Sys2Proof/Machine/Operands.lean ====
section
/-! DEFINITION. What PLAY computes from its operands (spec 41 R100, R101). All other operands are used as they are
(spec 30_encoding R61). -/

namespace Sys2Proof.Machine

/-- `step(f) = (f * TLS + (F_TICK div 2)) div F_TICK`, on exact integers (spec 41 R100). -/
def phaseStep (c : Config) (f : Half) : Nat := (f.toNat * c.tls + c.fTick / 2) / c.fTick

/-- A frequency is representable when its step fits STEP (spec 41 R100). -/
def representable (c : Config) (f : Half) : Bool := decide (phaseStep c f ≤ c.stepMax)

/-- The step oscillator B gets: A's where operand C is 0, "mirroring A into B" (spec 41 R101). -/
def stepForB (c : Config) (freqA freqB : Half) : Nat :=
  if freqB == 0 then phaseStep c freqA else phaseStep c freqB

end Sys2Proof.Machine
end

