-- ==== Sys2Proof/Machine/Tone.lean ====
section
/-! DEFINITION. PLAY and SLEEP (spec 41_tone_commands R101 to R104). -/

namespace Sys2Proof.Machine

/-- `OUT_EN <- 1`, the source's `enable_output()` (spec 10_state R13). -/
def State.enableOutput (s : State) : State := { s with outEn := true }

/-- `OUT_EN <- 0`, the source's `disable_output()`; LEVEL keeps the last sample (spec 10_state R13, 40 R84). -/
def State.disableOutput (s : State) : State := { s with outEn := false }

/-- PLAY's completion: `OUT_EN <- 0; respond(OK, 0)` (R102). -/
def State.playComplete (s : State) : State := s.disableOutput.respond .ok 0

/-- PLAY's writes once both steps fit: steps, phases at 0, N (R101). -/
def State.loadTone (s : State) (durationMs : Half) (sA sB : Nat) : State :=
  { s with stepA := sA, stepB := sB, phaseA := 0, phaseB := 0, n := durationMs }

/-- PLAY's accept step (R101). Both steps are tested before anything is written (spec 60_exceptions R202). With a
duration of 0 the enable/disable bracket falls inside this one step. -/
def execPlay (durationMs freqA freqB : Half) (s : State) : Host.Outcome State Fault Refusal :=
  if representable s.cfg freqA && representable s.cfg freqB then
    let loaded := s.beginAccept.loadTone durationMs (phaseStep s.cfg freqA) (stepForB s.cfg freqA freqB)
    if durationMs == 0 then .next loaded.enableOutput.playComplete
    else .next (loaded.enableOutput.await durationMs .playWait)
  else .next (s.beginAccept.reject .range)

/-- SLEEP's accept step (R104): `N <- A`, then the response at once where A is 0, else the wait. -/
def execSleep (m : Half) (s : State) : Host.Outcome State Fault Refusal :=
  if m == 0 then .next ({ s.beginAccept with n := m }.respond .ok 0)
  else .next (s.beginAccept.await m .sleepWait)

end Sys2Proof.Machine
end

