-- ==== Sys2Proof/Machine/Dispatch.lean ====
section
/-! DEFINITION. The accept step of each command, once its word was transferred and decoded (spec 30_encoding R67). -/

namespace Sys2Proof.Machine

/-- The command's accept step. -/
def exec (i : Instr) (s : State) : Host.Outcome State Fault Refusal :=
  match i with
  | .play durationMs freqA freqB => Sys2Proof.Machine.execPlay durationMs freqA freqB s
  | .sleep m => Sys2Proof.Machine.execSleep m s
  | .getkey => Sys2Proof.Machine.execGetkey s
  | .arm => Sys2Proof.Machine.execArm s
  | .disarm => Sys2Proof.Machine.execDisarm s
  | .lptake => Sys2Proof.Machine.execLptake s
  | .tmask => Sys2Proof.Machine.execTmask s
  | .tunmask => Sys2Proof.Machine.execTunmask s
  | .stat => Sys2Proof.Machine.execStat s

end Sys2Proof.Machine
end

