-- ==== Sys2Proof/Machine/Sequencer.lean ====
section
/-! DEFINITION. The sequencer's own steps while a command is in progress: the poll step PLAY, SLEEP and GETKEY share, and
the two conversion steps (spec 41 R103, 42 R122 to R124; all transitions in 41 R108). -/

namespace Sys2Proof.Machine

/-- What the poll step that brings N to 0 does besides (spec 41 R103). -/
def State.waitOver (s : State) : State :=
  match s.seq with
  | .playWait => s.playComplete
  | .sleepWait => s.respond .ok 0
  | .gkDebounce => s.secondConversion
  | _ => s

/-- What every poll step does: `MS_FLAG <- 0; N <- N - 1` (spec 41 R103). -/
def State.countDown (s : State) : State := { s.takeMs with n := s.n - 1 }

/-- The poll step, enabled in a waiting state when MS_FLAG = 1: the countdown, and the end of the wait where N is now 0
(spec 41 R103). -/
def State.poll (s : State) : State :=
  if s.countDown.n == 0 then s.countDown.waitOver else s.countDown

/-- The sequencer's turn: its one enabled step, or none, in which case it waits (spec 41 R103, R108, 42 R122, R124). In
IDLE its step is the accept of a word, which is the host's to present. -/
def State.seqTurn (s : State) : State :=
  match s.seq with
  | .idle => s
  | .playWait | .sleepWait | .gkDebounce => if s.msFlag then s.poll else s
  | .gkConv1 => if s.adcBusy then s else s.conv1Step
  | .gkConv2 => if s.adcBusy then s else s.conv2Step

/-- Guarantee (c) of spec 20_memory R54: a waiting sequencer that finds MS_FLAG = 1 polls before the next tick step that
would raise it again. True in the states in which a tick event must let the poll step go first (log 4). -/
def State.pollsFirst (s : State) : Bool := s.seq.isWait && s.msFlag && !s.tmask && s.clockWraps

end Sys2Proof.Machine
end

