-- ==== Sys2Proof/Machine/Events.lean ====
section
/-! DEFINITION. One move of the environment or of an agent, applied to the block (spec 00_scope R3, 10_state R30). -/

namespace Sys2Proof.Machine

/-! ### The next move -/

/-- The next move: the first one listed, or a free one (log 2). -/
def State.nextEvent (s : State) : Event :=
  match s.inputs with
  | e :: _ => e
  | [] => Config.freeEvent s.draws

/-- The next move is taken off. -/
def State.consume (s : State) : State :=
  match s.inputs with
  | _ :: rest => { s with inputs := rest }
  | [] => { s with draws := s.draws + 1 }

/-! ### The handshake -/

/-- The accept step of a transferred word (spec 30_encoding R64, R67): a command is executed, any other word is rejected
with ERR_ILLEGAL and nothing else changes (spec 60_exceptions R201). -/
def acceptWord (w : CmdWord) (s : State) : Host.Outcome State Fault Refusal :=
  match decode w with
  | .instr i => exec i s
  | .illegal _ => .next (s.beginAccept.reject .illegal)

/-- The host presents a word: it is transferred only when CMD_READY = 1; otherwise it has no effect and gets no response
(spec 30_encoding R67, 93 B14). -/
def presentWord (w : CmdWord) (s : State) : Host.Outcome State Fault Refusal :=
  if s.cmdReady then acceptWord w s else .next s

/-- What one move does. A move of an agent that has no enabled step leaves the block as it is (log 3). -/
def onEvent (e : Event) (s : State) : Host.Outcome State Fault Refusal :=
  match e with
  | .tick => .next s.tickEvent
  | .adcDone v => .next (s.adcDone v)
  | .command w => presentWord w s
  | .takeResponse => .next s
  | .seqTurn => .next s.seqTurn
  | .reset => .next s.resetBlock

/-- One step of the machine: the next move, unless it is a tick event that guarantee (c) of spec 20_memory R54 makes wait
for the poll step, which is then the step taken while the tick event stays next (log 4). -/
def oneStep (s : State) : Host.Outcome State Fault Refusal :=
  if s.nextEvent == .tick && s.pollsFirst then .next s.quiet.poll
  else onEvent s.nextEvent s.quiet.consume

end Sys2Proof.Machine
end

