-- ==== Sys2Proof/Machine/Step.lean ====
section
/-! DEFINITION. The step, and a state whose next step runs a given word. -/

namespace Sys2Proof.Machine

/-- One atomic step of one agent (spec 00_scope R3, 20_memory R51). -/
def step (s : State) : Host.Outcome State Fault Refusal := oneStep s

/-- The state in which the host presents this word next and the block is ready for it. The block fetches nothing (spec
20_memory R53): a word comes in at port CMD when SEQ = IDLE, so these two are all it takes (log 13). -/
def State.withFetchWord (s : State) (nbits w : Nat) : State :=
  { s with seq := .idle, inputs := .command (BitVec.ofNat 64 (w % 2 ^ nbits)) :: s.inputs }

end Sys2Proof.Machine
end

