-- ==== Sys2Proof/Machine/HostContract.lean ====
section
/-! DEFINITION. The data of the host contract (spec 45_host_contract R160 to R172): how the source's calls map onto
commands, tone modes and dispatch, the ring buffer, the non-volatile store. All of it is outside the block: none of it is
state of the block and no step of the block reads it (spec 00_scope R5; log 22). -/

namespace Sys2Proof.Machine

/-! ### The source's calls (R160) -/

/-- The calls through which the control layer uses the block. -/
inductive HostCall where
  | play (durationMs freqA freqB : Half)
  | sleepMs (n : Half)
  | getKey
  | arm
  | disarm
  | takeLongPress
  | suppressTicks
  | restoreTicks
  deriving DecidableEq, Repr

/-- Each call is one command (R160). -/
def HostCall.command : HostCall → Instr
  | .play d a b => .play d a b
  | .sleepMs n => .sleep n
  | .getKey => .getkey
  | .arm => .arm
  | .disarm => .disarm
  | .takeLongPress => .lptake
  | .suppressTicks => .tmask
  | .restoreTicks => .tunmask

/-! ### Tone modes (R162) -/

/-- The five playable modes. EMPTY, and every byte that codes none of them, is no mode. -/
inductive ToneMode where
  | mf
  | dtmf
  | redbox
  | greenbox
  | pulse
  deriving DecidableEq, Repr

/-- MODE_CODES: the stored byte of each mode, an open parameter (R162, R181). -/
structure ModeCodes where
  mf : Byte
  dtmf : Byte
  redbox : Byte
  greenbox : Byte
  pulse : Byte
  deriving DecidableEq, Repr

/-- The byte a mode is stored as. -/
def ModeCodes.byteOf (m : ModeCodes) : ToneMode → Byte
  | .mf => m.mf
  | .dtmf => m.dtmf
  | .redbox => m.redbox
  | .greenbox => m.greenbox
  | .pulse => m.pulse

/-- The mode a stored byte codes; none for EMPTY (0xFF) and for every byte outside the valid range. -/
def ModeCodes.modeOf (m : ModeCodes) (b : Byte) : Option ToneMode :=
  if b == m.mf then some .mf
  else if b == m.dtmf then some .dtmf
  else if b == m.redbox then some .redbox
  else if b == m.greenbox then some .greenbox
  else if b == m.pulse then some .pulse
  else none

/-- The erase sentinel, which is also the byte of EMPTY (spec 00_scope section 7, R162). -/
def eraseSentinel : Byte := 0xFF

/-- An injective map into bytes other than 0xFF (spec 92, open parameters). -/
def ModeCodes.wf (m : ModeCodes) : Bool :=
  decide ([m.mf, m.dtmf, m.redbox, m.greenbox, m.pulse, eraseSentinel].Nodup)

/-! ### The dispatch table (R163 to R166) -/

/-- A duration of the table: a number of milliseconds, or the live tone length (R180(f)). -/
inductive ToneDuration where
  | fixed (ms : Half)
  | toneLength
  deriving DecidableEq, Repr

/-- A duration in milliseconds, at a live tone length. -/
def ToneDuration.ms (len : Half) : ToneDuration → Half
  | .fixed ms => ms
  | .toneLength => len

/-- The three shapes of an entry (R163). -/
inductive ToneShape where
  /-- one `PLAY` -/
  | single (d : ToneDuration) (freqA freqB : Half)
  /-- `PLAY; SLEEP; PLAY` -/
  | pair (d1 : ToneDuration) (freqA1 freqB1 : Half) (gap : Half) (d2 : ToneDuration) (freqA2 freqB2 : Half)
  /-- `count` times `PLAY; SLEEP` -/
  | train (count : Nat) (d : ToneDuration) (freqA freqB : Half) (spacing : Half)
  deriving DecidableEq, Repr

/-- The commands of an entry. -/
def ToneShape.commands (len : Half) : ToneShape → List Instr
  | .single d a b => [.play (d.ms len) a b]
  | .pair d1 a1 b1 gap d2 a2 b2 => [.play (d1.ms len) a1 b1, .sleep gap, .play (d2.ms len) a2 b2]
  | .train count d a b spacing => (List.replicate count [Instr.play (d.ms len) a b, Instr.sleep spacing]).flatten

/-- The frequencies an entry asks for. -/
def ToneShape.freqs : ToneShape → List Half
  | .single _ a b => [a, b]
  | .pair _ a1 b1 _ _ a2 b2 => [a1, b1, a2, b2]
  | .train _ _ a b _ => [a, b]

/-- One entry of TONE_TABLE. -/
structure ToneEntry where
  mode : ToneMode
  key : Byte
  shape : ToneShape
  deriving DecidableEq, Repr

/-- The pause after an entry in storage-chunk playback, one per mode (R165). -/
structure ModePauses where
  mf : Half
  dtmf : Half
  redbox : Half
  greenbox : Half
  pulse : Half
  deriving DecidableEq, Repr

/-- The pause of a mode. -/
def ModePauses.of (p : ModePauses) : ToneMode → Half
  | .mf => p.mf
  | .dtmf => p.dtmf
  | .redbox => p.redbox
  | .greenbox => p.greenbox
  | .pulse => p.pulse

/-- TONE_TABLE, an open parameter (R163, R181). -/
structure ToneTable where
  entries : List ToneEntry
  pauses : ModePauses
  deriving DecidableEq, Repr

/-- The entry of a (mode, key) pair. -/
def ToneTable.lookup (t : ToneTable) (mode : ToneMode) (key : Byte) : Option ToneShape :=
  (t.entries.find? (fun e => e.mode == mode && e.key == key)).map (·.shape)

/-- `dispatch(mode, key, pause_after)` as the commands it issues (R163, R165): unknown pairs issue none. -/
def ToneTable.dispatch (t : ToneTable) (len : Half) (mode : ToneMode) (key : Byte) (pauseAfter : Bool) : List Instr :=
  match t.lookup mode key with
  | none => []
  | some shape => shape.commands len ++ (if pauseAfter then [.sleep (t.pauses.of mode)] else [])

/-- Key codes the host gives a meaning of its own (spec 20_memory R46). -/
def keySeize : Byte := 13

/-- The pulses a digit key dials in PULSE mode: 1 to 9, and ten for the digit key "0", code 11 (R164). -/
def pulseCount (key : Byte) : Option Nat :=
  if 1 ≤ key.toNat ∧ key.toNat ≤ 9 then some key.toNat
  else if key.toNat = 11 then some 10
  else none

/-- SEIZE is one tone, the same in the four tone modes (R164). -/
def ToneTable.seizeUniform (t : ToneTable) : Bool :=
  match t.lookup .mf keySeize with
  | some (.single d a b) =>
    [ToneMode.dtmf, .redbox, .greenbox].all (fun m => t.lookup m keySeize == some (.single d a b))
  | _ => false

/-- In PULSE mode every digit key is a train of its number of one and the same pulse (R164). -/
def ToneTable.pulseDigits (t : ToneTable) : Bool :=
  match t.lookup .pulse 1 with
  | some (.train _ d a b spacing) =>
    [1, 2, 3, 4, 5, 6, 7, 8, 9, 11].all (fun k : Byte =>
      match pulseCount k with
      | some n => t.lookup .pulse k == some (.train n d a b spacing)
      | none => false)
  | _ => false

/-- Every frequency of the table has a step the block can represent (spec 92, open parameters; 41 R100). -/
def ToneTable.representable (c : Config) (t : ToneTable) : Bool :=
  t.entries.all fun e => e.shape.freqs.all (Machine.representable c)

/-- What is admitted as TONE_TABLE, for a block of this configuration: R164, the one entry the source states, MF "5"
(R180(f)), and representable frequencies (spec 92, open parameters). -/
def ToneTable.wf (c : Config) (t : ToneTable) : Bool :=
  t.seizeUniform && t.pulseDigits && t.lookup .mf 5 == some (.single .toneLength 900 1300) && t.representable c

/-! ### The ring buffer (R167, R168) -/

/-- The payload of a chunk, and so the capacity C of the ring buffer (R167, R169). -/
def chunkPayload : Nat := 40

/-- RB_OVERFLOW, an open parameter with two admitted values (R168). -/
inductive OverflowPolicy where
  | rejectWhenFull
  | dropOldest
  deriving DecidableEq, Repr

/-- The ring buffer's keys, the oldest first. -/
structure Ring where
  keys : List Byte
  deriving DecidableEq, Repr

/-- `init`: empty. -/
def Ring.init : Ring := { keys := [] }

/-- `count()`. -/
def Ring.count (r : Ring) : Nat := r.keys.length

/-- `is_empty()` is `count() == 0`. -/
def Ring.isEmpty (r : Ring) : Bool := r.count == 0

/-- `insert`: at the newest end; a full buffer follows the overflow policy (R168). -/
def Ring.insert (policy : OverflowPolicy) (r : Ring) (k : Byte) : Ring :=
  if r.keys.length < chunkPayload then { keys := r.keys ++ [k] }
  else
    match policy with
    | .rejectWhenFull => r
    | .dropOldest => { keys := r.keys.drop 1 ++ [k] }

/-- `remove`: the oldest key. An empty buffer gives none: what it does there the spec does not say (spec 91 N27). -/
def Ring.remove (r : Ring) : Option (Byte × Ring) :=
  match r.keys with
  | [] => none
  | k :: rest => some (k, { keys := rest })

/-! ### The non-volatile store (R169) -/

/-- The store's bytes as a list of (address, byte) pairs in one canonical form: addresses strictly rising, and no entry
equal to what an unlisted byte reads as, the erase sentinel. -/
structure Store where
  cells : List Host.Cell
  deriving DecidableEq, Repr

/-- The store has 495 bytes (R169). -/
def storeSize : Nat := 495

/-- Addresses rise strictly, from a lower bound on. -/
def risingFrom : Nat → List Host.Cell → Bool
  | _, [] => true
  | low, (a, _) :: rest => decide (low ≤ a) && risingFrom (a + 1) rest

/-- The canonical form. -/
def Store.wf (m : Store) : Bool :=
  risingFrom 0 m.cells && m.cells.all (fun x => decide (x.1 < storeSize) && x.2 != eraseSentinel)

/-- The freshly erased store. -/
def Store.erased : Store := { cells := [] }

/-- The byte listed at an address, or the erase sentinel. -/
def readCell : List Host.Cell → Nat → Byte
  | [], _ => eraseSentinel
  | (b, v) :: rest, a => if a = b then v else readCell rest a

/-- Putting a byte at an address of a rising list; writing the erase sentinel removes the entry. -/
def writeCell : List Host.Cell → Nat → Byte → List Host.Cell
  | [], a, x => if x = eraseSentinel then [] else [(a, x)]
  | (b, v) :: rest, a, x =>
    if a < b then (if x = eraseSentinel then (b, v) :: rest else (a, x) :: (b, v) :: rest)
    else if a = b then (if x = eraseSentinel then rest else (b, x) :: rest)
    else (b, v) :: writeCell rest a x

/-- `read_persistent(addr, 1)`; none outside the store. -/
def Store.read (m : Store) (a : Nat) : Option Byte := if a < storeSize then some (readCell m.cells a) else none

/-- One byte written; none outside the store. -/
def Store.write (m : Store) (a : Nat) (x : Byte) : Option Store :=
  if a < storeSize then some { cells := writeCell m.cells a x } else none

/-- `read_persistent(addr, len)`. -/
def Store.readBlock (m : Store) (a : Nat) : Nat → Option (List Byte)
  | 0 => some []
  | n + 1 =>
    match m.read a, m.readBlock (a + 1) n with
    | some v, some vs => some (v :: vs)
    | _, _ => none

/-- `write_persistent(addr, bytes)`, a single block write. -/
def Store.writeBlock (m : Store) (a : Nat) : List Byte → Option Store
  | [] => some m
  | x :: xs =>
    match m.write a x with
    | some m' => m'.writeBlock (a + 1) xs
    | none => none

/-- Byte 1: the startup tone mode; byte 2: the startup tone length (R169). -/
def modeAddress : Nat := 1
def lengthAddress : Nat := 2

/-- The first chunk's offset, a chunk's size, and their number (R169). -/
def chunkBase : Nat := 3
def chunkSize : Nat := 41
def chunkCount : Nat := 12

/-- `offset = base + (key_index - 1) * chunk_size`, for the 12 non-SEIZE keys 1 to 12 (R169). -/
def chunkAddress (key : Byte) : Option Nat :=
  if 1 ≤ key.toNat ∧ key.toNat ≤ chunkCount then some (chunkBase + (key.toNat - 1) * chunkSize) else none

/-! ### Storing and playing back a chunk (R170, R171) -/

/-- A chunk buffer's 41 bytes: what it holds, short-fall padded with the erase sentinel (R170). -/
def padChunk (buffer : List Byte) : List Byte := (buffer ++ List.replicate chunkSize eraseSentinel).take chunkSize

/-- A chunk's 41 bytes: the mode, then the keys, then the padding (R170). -/
def chunkImage (mode : Byte) (keys : List Byte) : List Byte := padChunk (mode :: keys)

/-- The keys of a chunk's payload: up to the first erase sentinel or the chunk's end (R169). -/
def chunkKeys (payload : List Byte) : List Byte := payload.takeWhile (· != eraseSentinel)

/-- The single block write of a chunk buffer to the chunk of a key (R170). -/
def Store.writeChunk (m : Store) (key : Byte) (image : List Byte) : Option Store :=
  match chunkAddress key with
  | some a => m.writeBlock a image
  | none => none

/-- `store(key)`'s effect on the store: the chunk of the key gets the current mode and the ring buffer's keys (R170). -/
def Store.storeChunk (m : Store) (codes : ModeCodes) (mode : ToneMode) (key : Byte) (r : Ring) : Option Store :=
  m.writeChunk key (chunkImage (codes.byteOf mode) r.keys)

/-- A chunk read back: its mode and keys; none where the stored mode is out of the valid range, which is a corrupted or
empty slot (R171), or the key has no chunk. -/
def Store.readChunk (m : Store) (codes : ModeCodes) (key : Byte) : Option (ToneMode × List Byte) :=
  match chunkAddress key with
  | some a =>
    match m.readBlock a chunkSize with
    | some (b :: payload) => (codes.modeOf b).map fun mode => (mode, chunkKeys payload)
    | _ => none
  | none => none

/-- `playback(key)` as the commands it issues: silence for a slot that is not valid, else every stored key dispatched in
the stored mode, with its pause (R171; `90_conflicts.md` C3). -/
def Store.playback (m : Store) (codes : ModeCodes) (t : ToneTable) (len : Half) (key : Byte) : List Instr :=
  match m.readChunk codes key with
  | some (mode, keys) => (keys.map fun k => t.dispatch len mode k true).flatten
  | none => []

/-! ### The header (R172) -/

/-- TONE_LENGTHS: the two valid tone lengths and their stored bytes, an open parameter. -/
structure ToneLengths where
  fastMs : Half
  slowMs : Half
  fastByte : Byte
  slowByte : Byte
  deriving DecidableEq, Repr

/-- The length a stored byte codes. -/
def ToneLengths.lengthOf (l : ToneLengths) (b : Byte) : Option Half :=
  if b == l.fastByte then some l.fastMs else if b == l.slowByte then some l.slowMs else none

/-- What is admitted as TONE_LENGTHS: exactly two lengths, the fast one the shorter, under two stored bytes of which neither
is the erase sentinel, since a header of (0xFF, 0xFF) falls back (R172). -/
def ToneLengths.wf (l : ToneLengths) : Bool :=
  decide (l.fastMs.toNat < l.slowMs.toNat) && l.fastByte != l.slowByte && l.fastByte != eraseSentinel &&
    l.slowByte != eraseSentinel

/-- The startup mode: the stored one, or the default, MF (R172). The flag says that the fallback was taken. -/
def startupMode (codes : ModeCodes) (b : Byte) : ToneMode × Bool :=
  match codes.modeOf b with
  | some m => (m, false)
  | none => (.mf, true)

/-- The startup length: the stored one, or the fast default (R172). The flag says that the fallback was taken. -/
def startupLength (l : ToneLengths) (b : Byte) : Half × Bool :=
  match l.lengthOf b with
  | some n => (n, false)
  | none => (l.fastMs, true)

end Sys2Proof.Machine
end

