-- ==== Sys2Proof/Machine/Ports.lean ====
section
/-! DEFINITION. The block's output ports (spec 10_state R30); `CMD_READY` is `State.cmdReady` in Ops.lean. -/

namespace Sys2Proof.Machine

/-- What the output ports show. -/
structure PortView where
  cmdReady : Bool
  resp : Half
  respValid : Bool
  level : Byte
  outEn : Bool
  adcStart : Bool
  deriving DecidableEq, Repr

/-- The output ports of a state. -/
def State.ports (s : State) : PortView where
  cmdReady := s.cmdReady
  resp := s.resp
  respValid := s.respValid
  level := s.level
  outEn := s.outEn
  adcStart := s.adcStartOut

/-- ERR, bits 15:8 of the response (spec 30_encoding R65). -/
def State.respErr (s : State) : Byte := s.resp.extractLsb' 8 8

/-- VAL, bits 7:0 of the response (spec 30_encoding R65). -/
def State.respVal (s : State) : Byte := s.resp.extractLsb' 0 8

end Sys2Proof.Machine
end

