-- ==== Sys2Proof/Machine/Runs.lean ====
section
/-! DEFINITION. One move that comes now, infinite runs under a schedule of moves, and the progress guarantees of spec
20_memory R54 as conditions on them. Guarantee (c) is part of the step itself (log 4). -/

namespace Sys2Proof.Machine

/-- The block's step on one move that comes now, whatever State lists. Where guarantee (c) puts a poll step before a tick
event, the step is that poll step and the tick event is still to come (log 4, log 25). -/
def State.take (s : State) (e : Event) : Host.Outcome State Fault Refusal :=
  match step { s with inputs := [e] } with
  | .next t => .next { t with inputs := s.inputs }
  | .fault f => .fault f
  | .refused r => .refused r

/-- An infinite run: the states `st` follow one another on the moves `mv`. -/
def IsRun (st : Nat → State) (mv : Nat → Event) : Prop := ∀ k, (st k).take (mv k) = .next (st (k + 1))

/-- R54(a): "Tick events keep arriving". A tick event that a poll step goes before has not yet been taken. -/
def TicksKeepComing (st : Nat → State) (mv : Nat → Event) : Prop :=
  ∀ k, ∃ j, k ≤ j ∧ mv j = .tick ∧ (st j).pollsFirst = false

/-- R54(b): "ADC_BUSY = 1 does not last forever". -/
def ConversionsEnd (st : Nat → State) : Prop :=
  ∀ k, (st k).adcBusy = true → ∃ j, k ≤ j ∧ (st j).adcBusy = false

/-- R54: "A sequencer in GK_CONV1 or GK_CONV2 takes its step after finitely many steps once ADC_BUSY = 0". -/
def SequencerReacts (st : Nat → State) (mv : Nat → Event) : Prop :=
  ∀ k, ((st k).seq = .gkConv1 ∨ (st k).seq = .gkConv2) → (st k).adcBusy = false →
    ∃ j, k ≤ j ∧ (mv j = .seqTurn ∨ mv j = .reset)

/-- The progress guarantees of R54 that are conditions on infinite runs. DESIGN CHOICE: nothing more is asked. Guarantee (c) sets
a deadline only by the next raising tick step, and at a closed gate none comes: there a waiting sequencer that finds
MS_FLAG = 1 may never take its poll step (log 5). -/
structure Fair (st : Nat → State) (mv : Nat → Event) : Prop where
  ticks : TicksKeepComing st mv
  conversions : ConversionsEnd st
  sequencer : SequencerReacts st mv

end Sys2Proof.Machine
end

