-- ==== Sys2Proof/Machine/ControlLoop.lean ====
section
/-! DEFINITION. The control loop of the host contract (spec 45_host_contract R173 to R178) as the agent HOST, and the
whole product: the block driven by the loop. The loop is outside the block (log 22); where the spec leaves it open, it
is a parameter or a log entry (log 23 to 31). -/

namespace Sys2Proof.Machine

/-! ### Parameters (R181) -/

/-- What a key held at power-on, or chosen in the set-default sub-protocol, selects (R174). -/
inductive StartupChoice where
  | selectMode (m : ToneMode)
  | toggleLength
  deriving DecidableEq, Repr

/-- A confirmation tone: one `PLAY`, its operands not given (R170, R174). -/
structure ConfirmTone where
  durationMs : Half
  freqA : Half
  freqB : Half
  deriving DecidableEq, Repr

/-- The command of a confirmation tone. -/
def ConfirmTone.command (t : ConfirmTone) : Instr := .play t.durationMs t.freqA t.freqB

/-- A tone sounds: it lasts, it has a frequency, and the block accepts it (R170 "audible"; log 30). -/
def ConfirmTone.audible (c : Config) (t : ConfirmTone) : Bool :=
  t.durationMs != 0 && (t.freqA != 0 || t.freqB != 0) && representable c t.freqA && representable c t.freqB

/-- What the hold loop issues between its two tests, and their order, an open parameter (R177, R181). DESIGN CHOICE: the spec
lists the first loop only and does not say what another order issues; the model has these three (log 31). -/
inductive HoldOrder where
  /-- `GETKEY`, the release test, `LPTAKE`, the flag test: the loop R177 lists -/
  | releaseFirst
  /-- `GETKEY`, `LPTAKE`, the flag test, the release test: as the trace of spec 95 P3b shows -/
  | flagFirst
  /-- `LPTAKE`, the flag test, `GETKEY`, the release test: the flag is taken before any key is read -/
  | flagBeforeKey
  deriving DecidableEq, Repr

/-- The host's open parameters. -/
structure HostParams where
  codes : ModeCodes
  table : ToneTable
  lengths : ToneLengths
  overflow : OverflowPolicy
  /-- SEIZE_LIVE_IN_PLAYBACK (R176) -/
  seizeLiveInPlayback : Bool
  /-- The order of the two tests of the hold loop (R177). -/
  holdOrder : HoldOrder
  /-- The startup key map (R174). -/
  startupKeys : List (Byte × StartupChoice)
  /-- CHIRPS (R172, R177): "any PLAY and SLEEP sequences" (spec 92, open parameters). -/
  modeChirp : List Instr
  lengthChirp : List Instr
  upChirp : List Instr
  downChirp : List Instr
  /-- The confirmation tones before and after a store (R170). -/
  storeBefore : List ConfirmTone
  storeAfter : List ConfirmTone
  /-- The confirmation tone and tones at the start and the end of the set-default sub-protocol (R174). -/
  defaultBefore : ConfirmTone
  defaultAfter : List ConfirmTone
  deriving DecidableEq, Repr

/-- A command a chirp may hold. -/
def isTone : Instr → Bool
  | .play _ _ _ => true
  | .sleep _ => true
  | _ => false

/-- The startup map is about keys that are held: no entry for "no key" (R174). -/
def HostParams.startupKeysWf (p : HostParams) : Bool :=
  p.startupKeys.all fun x => decide (1 ≤ x.1.toNat ∧ x.1.toNat ≤ 13)

/-- Wherever the host confirms there is a tone, and every tone sounds (R170, R174; log 30). -/
def HostParams.tonesWf (c : Config) (p : HostParams) : Bool :=
  [p.storeBefore, p.storeAfter, [p.defaultBefore], p.defaultAfter].all fun tones =>
    !tones.isEmpty && tones.all (·.audible c)

/-- What is admitted for a block of this configuration (R162, R170, R172, R174, R181; spec 92, open parameters). -/
def HostParams.wf (c : Config) (p : HostParams) : Bool :=
  p.codes.wf && p.table.wf c && p.lengths.wf && p.startupKeysWf && p.tonesWf c &&
    [p.modeChirp, p.lengthChirp, p.upChirp, p.downChirp].all (fun chirp => chirp.all isTone)

/-- The choice of a key of the startup map. -/
def HostParams.choiceOf (p : HostParams) (key : Byte) : Option StartupChoice :=
  (p.startupKeys.find? (fun x => x.1 == key)).map (·.2)

/-! ### The loop's state (R173) -/

/-- Where the loop stands: what it does once the actions still to be done are over. -/
inductive Phase where
  /-- STARTUP, before anything (R174) -/
  | startup
  /-- STARTUP, the first GETKEY is answered -/
  | startupKey
  /-- the set-default sub-protocol waits for the release -/
  | defaultRelease
  /-- the set-default sub-protocol reads one more key -/
  | defaultChoose
  /-- WAIT_KEY (R175) -/
  | waitKey
  /-- DISPATCH is done (R176) -/
  | dispatched
  /-- HOLD_ARBITRATION, a GETKEY is answered (R177) -/
  | hold
  /-- HOLD_ARBITRATION, an LPTAKE is answered -/
  | holdFlag
  /-- HOLD_ARBITRATION, the rest of the hold after a long press -/
  | rest
  /-- the loop's epilogue (R178) -/
  | epilogue
  deriving DecidableEq, Repr

/-- One thing the host does. -/
inductive HostAction where
  /-- issue a command to the block, and wait for its response (R160) -/
  | issue (i : Instr)
  /-- the ring buffer's `init` (R167) -/
  | initRing
  /-- the ring buffer's `count` (R167) -/
  | countRing
  /-- the ring buffer's `remove`, the key into the chunk buffer (R167, R170) -/
  | removeRing
  /-- the chunk buffer begun with the current tone mode (R170) -/
  | startChunk
  /-- the drain goes on while the ring buffer is not empty, else the chunk buffer is padded (R167, R170) -/
  | drainRing
  /-- the chunk buffer written to the original key's chunk (R170) -/
  | writeChunk
  deriving DecidableEq, Repr

/-- A sequence of commands as the host's actions. -/
def issues (cmds : List Instr) : List HostAction := cmds.map .issue

/-- Confirmation tones as the host's actions. -/
def confirm (tones : List ConfirmTone) : List HostAction := issues (tones.map (·.command))

/-- One operation in a critical section: "`TMASK` before and `TUNMASK` after each operation" (R167, spec 20_memory R52). -/
def criticalSection (op : HostAction) : List HostAction := [.issue .tmask, op, .issue .tunmask]

/-- The drain, as long as `is_empty()`, "derived from `count() == 0`", does not hold (R167). -/
def drainActions : List HostAction := criticalSection .countRing ++ [.drainRing]

/-- The control loop's variables (R173), the chunk buffer of R170, the store the loop owns, the actions of the present
phase still to be done, and the call in progress. -/
structure Loop where
  phase : Phase
  todo : List HostAction
  /-- a command was issued and its response is still to be taken (R160, R173) -/
  awaiting : Bool
  /-- VAL of the last response taken -/
  answer : Byte
  mode : ToneMode
  toneLength : Half
  playbackMode : Bool
  justFlipped : Bool
  justWrote : Bool
  original : Byte
  /-- The key last read in the hold loop, for the release test (R177). -/
  heldKey : Byte
  ring : Ring
  /-- what the last `count` of the ring buffer gave (R167) -/
  counted : Nat
  chunk : List Byte
  store : Store
  deriving DecidableEq, Repr

/-- The loop at power-on, over what the store holds: the ring buffer "is reinitialized at boot" (R167), before STARTUP (log 23).
DESIGN CHOICE: playback mode is off at boot, which the spec has only as the premise of a scenario (R180(d)), and neither mark, "just
flipped" nor "just wrote" (R173), is set (log 28). The other variables are written before anything reads them. -/
def Loop.boot (p : HostParams) (m : Store) : Loop where
  phase := .startup
  todo := criticalSection .initRing
  awaiting := false
  answer := 0
  mode := .mf
  toneLength := p.lengths.fastMs
  playbackMode := false
  justFlipped := false
  justWrote := false
  original := 0
  heldKey := 0
  ring := Ring.init
  counted := 0
  chunk := []
  store := m

/-- Go on in a phase after these actions. -/
def Loop.goTo (l : Loop) (q : Phase) (acts : List HostAction) : Loop := { l with phase := q, todo := acts }

/-- Read a key next, then go on in a phase. -/
def Loop.readKey (l : Loop) (q : Phase) : Loop := l.goTo q [.issue .getkey]

/-! ### The transitions -/

/-- A header byte of the store. -/
def Loop.headerByte (l : Loop) (a : Nat) : Byte := (l.store.read a).getD eraseSentinel

/-- A header byte persisted; the header's addresses are inside the store. -/
def Loop.persist (l : Loop) (a : Nat) (x : Byte) : Loop := { l with store := (l.store.write a x).getD l.store }

/-- STARTUP: validate the header, sound the fallback chirps, read the key held at power-on (R172, R174). Only the values in
memory are corrected. DESIGN CHOICE: where both header bytes are invalid the mode's chirp comes first (log 27). -/
def Loop.startup (p : HostParams) (l : Loop) : Loop :=
  let m := startupMode p.codes (l.headerByte modeAddress)
  let n := startupLength p.lengths (l.headerByte lengthAddress)
  { l with mode := m.1, toneLength := n.1 }.goTo .startupKey
    (issues ((if m.2 then p.modeChirp else []) ++ (if n.2 then p.lengthChirp else []) ++ [Instr.getkey]))

/-- The other of the two tone lengths. -/
def HostParams.otherLength (p : HostParams) (len : Half) : Half :=
  if len == p.lengths.fastMs then p.lengths.slowMs else p.lengths.fastMs

/-- The stored byte of a tone length. -/
def HostParams.lengthByte (p : HostParams) (len : Half) : Byte :=
  if len == p.lengths.fastMs then p.lengths.fastByte else p.lengths.slowByte

/-- A startup choice of a key that is held, taken for this power cycle only (R174). -/
def Loop.override (p : HostParams) (l : Loop) (val : Byte) : Loop :=
  if val == 0 then l
  else
    match p.choiceOf val with
    | some (.selectMode m) => { l with mode := m }
    | _ => l

/-- A startup choice made the default, with the confirmation tones (R174). DESIGN CHOICE: it persists the one header byte the
key chose and no other, and the new default is live at once (log 26); a key outside the map changes nothing (log 24). -/
def Loop.setDefault (p : HostParams) (l : Loop) (val : Byte) : Loop :=
  match p.choiceOf val with
  | some (.selectMode m) =>
    ({ l with mode := m }.persist modeAddress (p.codes.byteOf m)).goTo .waitKey
      (confirm p.defaultAfter ++ issues [.getkey])
  | some .toggleLength =>
    ({ l with toneLength := p.otherLength l.toneLength }.persist lengthAddress
      (p.lengthByte (p.otherLength l.toneLength))).goTo .waitKey (confirm p.defaultAfter ++ issues [.getkey])
  | none => l.readKey .waitKey

/-- DISPATCH (R176): playback of the key's chunk, with the ring buffer reinitialized first, or the live dispatch. -/
def Loop.dispatch (p : HostParams) (l : Loop) (key : Byte) : Loop :=
  if l.playbackMode && key != keySeize then
    { l with original := key }.goTo .dispatched
      (criticalSection .initRing ++ issues (l.store.playback p.codes p.table l.toneLength key))
  else if l.playbackMode && !p.seizeLiveInPlayback then
    { l with original := key }.goTo .dispatched []
  else { l with original := key }.goTo .dispatched (issues (p.table.dispatch l.toneLength l.mode key false))

/-- The start of HOLD_ARBITRATION: arm, then the hold loop's first command. The key has just been read as held (R177;
log 31). -/
def Loop.armHold (p : HostParams) (l : Loop) : Loop :=
  match p.holdOrder with
  | .releaseFirst | .flagFirst => { l with heldKey := l.original }.goTo .hold (issues [.arm, .getkey])
  | .flagBeforeKey => { l with heldKey := l.original }.goTo .holdFlag (issues [.arm, .lptake])

/-- The key read in the hold loop is not the original one any more: the release (R177). -/
def Loop.released (l : Loop) : Bool := l.heldKey != l.original

/-- The end of the hold loop: the `DISARM` after `done` (R177). -/
def Loop.disarmHold (l : Loop) : Loop := l.goTo .epilogue (issues [.disarm])

/-- A key is read in the hold loop: the release test, or, where the flag is tested first, the `LPTAKE` before it (R177;
log 31). -/
def Loop.holdKey (p : HostParams) (l : Loop) : Loop :=
  match p.holdOrder with
  | .releaseFirst | .flagBeforeKey => if l.released then l.disarmHold else l.goTo .holdFlag (issues [.lptake])
  | .flagFirst => l.goTo .holdFlag (issues [.lptake])

/-- The actions of `store(key)`: tones, the drain into a chunk buffer, the block write, tones (R170). -/
def HostParams.storeActions (p : HostParams) : List HostAction :=
  confirm p.storeBefore ++ [.startChunk] ++ drainActions ++ [.writeChunk] ++ confirm p.storeAfter

/-- The long press (R177): SEIZE toggles playback mode; another key, outside playback mode, is stored. -/
def Loop.longPress (p : HostParams) (l : Loop) : Loop :=
  if l.original == keySeize then
    { l with playbackMode := !l.playbackMode, justFlipped := true }.goTo .rest
      (criticalSection .initRing ++ issues ((if l.playbackMode then p.downChirp else p.upChirp) ++ [Instr.getkey]))
  else if l.playbackMode then l.readKey .rest
  else l.goTo .rest (p.storeActions ++ issues [.getkey])

/-- LPTAKE is answered in the hold loop: the flag test, and the release test of the key last read, which has been made
already unless the flag is tested first (R177; log 31). -/
def Loop.holdFlagTest (p : HostParams) (l : Loop) : Loop :=
  if l.answer != 0 then l.longPress p
  else if l.released then l.disarmHold
  else l.readKey .hold

/-- The epilogue (R178): a short press outside playback mode enters the ring buffer; both marks are reset; "No command is
issued" (log 23). -/
def Loop.finish (p : HostParams) (l : Loop) : Loop :=
  { l with
    ring := if !l.playbackMode && !l.justFlipped && !l.justWrote then l.ring.insert p.overflow l.original else l.ring
    justFlipped := false
    justWrote := false }.readKey .waitKey

/-- What the loop does next, once its actions are over, on VAL of the last response (R173 to R178). -/
def Loop.decide (p : HostParams) (l : Loop) : Loop :=
  match l.phase with
  | .startup => l.startup p
  | .startupKey =>
    if l.answer == keySeize then l.goTo .defaultRelease (confirm [p.defaultBefore] ++ issues [.getkey])
    else (l.override p l.answer).readKey .waitKey
  | .defaultRelease => l.readKey (if l.answer == 0 then .defaultChoose else .defaultRelease)
  | .defaultChoose => if l.answer == 0 then l.readKey .defaultChoose else l.setDefault p l.answer
  | .waitKey => if l.answer == 0 then l.readKey .waitKey else l.dispatch p l.answer
  | .dispatched => l.armHold p
  | .hold => { l with heldKey := l.answer }.holdKey p
  | .holdFlag => l.holdFlagTest p
  | .rest => if l.answer == l.original then l.readKey .rest else l.disarmHold
  | .epilogue => l.finish p

/-- One `remove` of the drain: the oldest key leaves the ring buffer for the chunk buffer (R167, R170). -/
def Loop.drainKey (l : Loop) : Loop :=
  match l.ring.remove with
  | some (k, r) => { l with ring := r, chunk := l.chunk ++ [k] }
  | none => l

/-- What the drain does after a `count`: one more `remove` and `count`, or the end (R167, R170). -/
def Loop.drain (l : Loop) : Loop :=
  if l.counted == 0 then { l with chunk := padChunk l.chunk }
  else { l with todo := criticalSection .removeRing ++ drainActions ++ l.todo }

/-- An action that the host does alone; issuing a command is `Product.hostMove`'s. -/
def Loop.perform (p : HostParams) (l : Loop) (a : HostAction) : Loop :=
  match a with
  | .issue _ => l
  | .initRing => { l with ring := Ring.init }
  | .countRing => { l with counted := l.ring.count }
  | .removeRing => l.drainKey
  | .startChunk => { l with chunk := [p.codes.byteOf l.mode] }
  | .drainRing => l.drain
  | .writeChunk => { l with store := (l.store.writeChunk l.original l.chunk).getD l.store, justWrote := true }

/-- The response of the call in progress is taken: the call returns (R160). -/
def Loop.returned (l : Loop) (val : Byte) : Loop := { l with awaiting := false, answer := val }

/-- A command is issued: the call begins, and `rest` is left to do. -/
def Loop.called (l : Loop) (rest : List HostAction) : Loop := { l with todo := rest, awaiting := true }

/-! ### The whole product -/

/-- The block and the loop that drives it. -/
structure Product where
  block : State
  loop : Loop
  deriving DecidableEq, Repr

/-- The product at power-on, over what the store holds. -/
def Product.boot (c : Config) (p : HostParams) (m : Store) : Product :=
  { block := State.ofConfig c, loop := Loop.boot p m }

/-- The product after a step of its block, with the loop given. -/
def stepWith (l : Loop) (o : Host.Outcome State Fault Refusal) : Host.Outcome Product Fault Refusal :=
  match o with
  | .next b => .next { block := b, loop := l }
  | .fault f => .fault f
  | .refused r => .refused r

/-- A move of HOST. While a call is in progress the host takes the response once RESP_VALID = 1 and does nothing before
(R160, R173: "one command at a time and waits for its response"); else it does the next action, or decides. -/
def Product.hostMove (p : HostParams) (x : Product) : Host.Outcome Product Fault Refusal :=
  if x.loop.awaiting then
    if x.block.respValid then stepWith (x.loop.returned x.block.respVal) (x.block.take .takeResponse) else .next x
  else
    match x.loop.todo with
    | .issue i :: rest =>
      if x.block.cmdReady then stepWith (x.loop.called rest) (x.block.take (.command (encode i))) else .next x
    | a :: rest => .next { x with loop := { x.loop with todo := rest }.perform p a }
    | [] => .next { x with loop := x.loop.decide p }

/-- A move of another agent, or of the environment: the block steps, the loop stands still. Presenting a word and taking a
response are the host's alone. RESET is power-on, "there is no other kind" (spec 70 R230): the loop boots again over what
its store holds, in whatever call it was. DESIGN CHOICE: so a call that RESET cuts off never returns (log 29). -/
def Product.blockMove (p : HostParams) (e : Event) (x : Product) : Host.Outcome Product Fault Refusal :=
  match e with
  | .command _ | .takeResponse => .next x
  | .reset => stepWith (Loop.boot p x.loop.store) (x.block.take .reset)
  | _ => stepWith x.loop (x.block.take e)

end Sys2Proof.Machine
end

