-- ==== Sys2Proof/Safety.lean ====
section
/-! DEFINITION. The terms claims are stated in: groups of registers left unchanged, the invariant of every reachable
state, and runs that count tick steps. -/

namespace Sys2Proof.Machine

/-! ### Groups of registers, for frames -/

/-- The oscillator file is the same in both states. -/
def SameOsc (s t : State) : Prop :=
  t.phaseA = s.phaseA ∧ t.phaseB = s.phaseB ∧ t.stepA = s.stepA ∧ t.stepB = s.stepB

/-- OUT_EN and LEVEL are the same. -/
def SameOutput (s t : State) : Prop := t.outEn = s.outEn ∧ t.level = s.level

/-- The millisecond clock is the same. -/
def SameClock (s t : State) : Prop := t.tickCnt = s.tickCnt ∧ t.msFlag = s.msFlag

/-- The long-press registers are the same. -/
def SameLongPress (s t : State) : Prop :=
  t.lpArmed = s.lpArmed ∧ t.lpCnt = s.lpCnt ∧ t.lpFlag = s.lpFlag

/-- The tick gate is the same. -/
def SameGate (s t : State) : Prop := t.tmask = s.tmask ∧ t.tpend = s.tpend

/-- The two readings and the last key are the same. -/
def SameReadings (s t : State) : Prop := t.s1 = s.s1 ∧ t.s2 = s.s2 ∧ t.key = s.key

/-- The block's view of the converter is the same, and no conversion was requested. -/
def SameAdc (s t : State) : Prop :=
  t.adcBusy = s.adcBusy ∧ t.adcData = s.adcData ∧ t.adcStartOut = s.adcStartOut

/-- The response register is the same. -/
def SameResp (s t : State) : Prop := t.resp = s.resp ∧ t.respValid = s.respValid

/-- The configuration (with both tables, the only memory there is) and the environment's coming moves are the same. -/
def SameEnv (s t : State) : Prop := t.cfg = s.cfg ∧ t.inputs = s.inputs ∧ t.draws = s.draws

/-- The block has just responded with this word and is ready for the next command. -/
def Responded (w : Half) (t : State) : Prop := t.resp = w ∧ t.respValid = true ∧ t.seq = .idle

/-- Everything but the response and the sequencer state is the same. -/
def SameButResponse (s t : State) : Prop :=
  SameOsc s t ∧ SameOutput s t ∧ SameClock s t ∧ SameLongPress s t ∧ SameGate s t ∧ t.n = s.n ∧ SameReadings s t ∧
    SameAdc s t ∧ SameEnv s t

/-! ### The invariant -/

/-- What the spec says of every state between steps (spec 10_state R12, R15, R18, R21, R23, R25, R26; 41 R102; 42 R123;
30 R65; 43 R141). -/
structure State.Inv (s : State) : Prop where
  /-- R12 -/
  phaseA_lt : s.phaseA < s.cfg.tls
  /-- R12 -/
  phaseB_lt : s.phaseB < s.cfg.tls
  /-- R11 -/
  stepA_le : s.stepA ≤ s.cfg.stepMax
  /-- R11 -/
  stepB_le : s.stepB ≤ s.cfg.stepMax
  /-- R15 -/
  tickCnt_lt : s.tickCnt < s.cfg.ticksPerMs
  /-- R18 -/
  lpCnt_pos : 1 ≤ s.lpCnt.toNat
  /-- R18 -/
  lpCnt_le : s.lpCnt.toNat ≤ s.cfg.longpressTime.toNat
  /-- R141: "LP_CNT and LP_FLAG already hold these values after reset or an earlier DISARM" -/
  disarmed_cnt : s.lpArmed = false → s.lpCnt = s.cfg.longpressTime
  /-- R141, R142 -/
  disarmed_flag : s.lpArmed = false → s.lpFlag = false
  /-- R204: `TMASK = 0` implies `TPEND = 0` -/
  gate_open : s.tmask = false → s.tpend = false
  /-- R102: OUT_EN is 1 exactly while a PLAY waits -/
  outEn_iff : s.outEn = true ↔ s.seq = .playWait
  /-- R23 -/
  wait_pos : s.seq.isWait = true → 1 ≤ s.n.toNat
  /-- R26 -/
  busy_seq : s.adcBusy = true → s.seq = .gkConv1 ∨ s.seq = .gkConv2
  /-- R123: S1 is the value ADC_DATA still holds while the second conversion runs -/
  latched : s.seq = .gkConv2 → s.adcBusy = true → s.s1 = s.adcData
  /-- R25 -/
  key_le : s.key.toNat ≤ 13
  /-- R27: no response while a command is in progress -/
  no_resp : s.seq ≠ .idle → s.respValid = false
  /-- R65, R200: ERR is one of three codes -/
  err_le : s.respErr.toNat ≤ 2
  /-- R65: VAL is 0 when ERR is not OK -/
  val_zero : s.respErr ≠ 0 → s.respVal = 0

/-! ### Runs -/

/-- The next step performs a tick step: a tick event at an open gate that no poll step goes before. (The one tick step a
TUNMASK performs inside its accept step is not counted here.) -/
def State.takesTick (s : State) : Bool := s.nextEvent == .tick && !s.pollsFirst && !s.tmask

/-- How many tick steps the next step performs on a tick event. -/
def State.tickSteps (s : State) : Nat := if s.takesTick then 1 else 0

/-- `RunsTo P s T u`: steps lead from `s` to `u`, each taken in a state that meets `P`, and `T` tick events in between
led to tick steps. -/
inductive RunsTo (P : State → Prop) : State → Nat → State → Prop where
  | here (s : State) : RunsTo P s 0 s
  | more {s m u : State} {T : Nat} : RunsTo P s T m → P m → step m = .next u → RunsTo P s (T + m.tickSteps) u

/-- A state in which the sequencer waits out milliseconds and the block is not being reset. -/
def State.inWait (s : State) : Prop := s.seq.isWait = true ∧ s.nextEvent ≠ .reset

/-- A state of a GETKEY in progress, not being reset, in which a conversion can only give `v`. -/
def State.inGetkey (v : Byte) (s : State) : Prop :=
  s.seq ≠ .idle ∧ s.nextEvent ≠ .reset ∧ ∀ x, s.nextEvent = .adcDone x → x = v

/-- `r(j)` of spec 41 R105: the number of the tick step, counted from the entry at TICKCNT = c, that raises MS_FLAG the
`j`-th time; `r(0) = 0`. -/
def raiseTick (K c j : Nat) : Nat := if j = 0 then 0 else (K - c) + (j - 1) * K

/-- The step that makes each transition of SEQ, with its condition, row by row of spec 41 R108. A pair that no row lists is
no transition; SEQ staying in its state is listed where a step with that condition does it, or no step is enabled. -/
def State.seqRule (s : State) (q : Seq) : Prop :=
  match s.seq, q with
  | .idle, .idle => True
  | .idle, .playWait => ∃ w d a b, s.nextEvent = .command w ∧ decode w = .instr (.play d a b) ∧ 1 ≤ d.toNat ∧
      phaseStep s.cfg a ≤ s.cfg.stepMax ∧ phaseStep s.cfg b ≤ s.cfg.stepMax
  | .idle, .sleepWait => ∃ w m, s.nextEvent = .command w ∧ decode w = .instr (.sleep m) ∧ 1 ≤ m.toNat
  | .idle, .gkConv1 => ∃ w, s.nextEvent = .command w ∧ decode w = .instr .getkey
  | .playWait, .playWait => True
  | .playWait, .idle => s.msFlag = true ∧ s.n = 1
  | .sleepWait, .sleepWait => True
  | .sleepWait, .idle => s.msFlag = true ∧ s.n = 1
  | .gkConv1, .gkConv1 => True
  | .gkConv1, .gkDebounce => s.adcBusy = false ∧ 1 ≤ s.cfg.debounceMs.toNat
  | .gkConv1, .gkConv2 => s.adcBusy = false ∧ s.cfg.debounceMs = 0
  | .gkDebounce, .gkDebounce => True
  | .gkDebounce, .gkConv2 => s.msFlag = true ∧ s.n = 1
  | .gkConv2, .gkConv2 => True
  | .gkConv2, .gkConv1 => s.adcBusy = false ∧ s.s1 ≠ s.adcData
  | .gkConv2, .idle => s.adcBusy = false ∧ s.s1 = s.adcData
  | _, _ => False

end Sys2Proof.Machine
end

