-- ==== Sys2Proof/Certificates/Slice0/Obligations.lean ====
section
/-! DEFINITION. The statements for the provers. Each docstring names the rule of spec/ it formalises. Statements hold for
every well-formed configuration: State carries one (log 1). -/

open Sys2Proof Sys2Proof.Machine

/-! ### The long-press commands (spec 43) -/

/-- R140. ARM reloads the countdown with the threshold, arms, drops an old flag and responds `00:00`; TICKCNT is not
touched, so the countdown stands until the next wrap of TICKCNT and is first decremented there, 1 to K tick steps on. -/
def Obligations.ArmRestartsCountdown : Prop :=
  ∀ s : State, ∃ t, exec .arm s = .next t ∧
    t.lpCnt = s.cfg.longpressTime ∧ t.lpArmed = true ∧ t.lpFlag = false ∧ Responded 0x0000 t ∧
    SameOsc s t ∧ SameOutput s t ∧ SameClock s t ∧ SameGate s t ∧ t.n = s.n ∧ SameReadings s t ∧ SameAdc s t ∧
    SameEnv s t ∧
    (∀ j, s.tickCnt + j < s.cfg.ticksPerMs → (State.tickStep^[j] t).lpCnt = s.cfg.longpressTime) ∧
    (s.tickCnt < s.cfg.ticksPerMs →
      (State.tickStep^[s.cfg.ticksPerMs - s.tickCnt] t).lpCnt =
        if s.cfg.longpressTime = 1 then s.cfg.longpressTime else s.cfg.longpressTime - 1)

/-- R141. DISARM disarms, reloads the countdown, drops the flag and responds `00:00`; every later tick step leaves both
at these values; on a disarmed arbiter that already holds them nothing but RESP changes. -/
def Obligations.DisarmStopsCountdown : Prop :=
  ∀ s : State, ∃ t, exec .disarm s = .next t ∧
    t.lpArmed = false ∧ t.lpCnt = s.cfg.longpressTime ∧ t.lpFlag = false ∧ Responded 0x0000 t ∧
    SameOsc s t ∧ SameOutput s t ∧ SameClock s t ∧ SameGate s t ∧ t.n = s.n ∧ SameReadings s t ∧ SameAdc s t ∧
    SameEnv s t ∧
    (∀ j, (State.tickStep^[j] t).lpCnt = s.cfg.longpressTime ∧ (State.tickStep^[j] t).lpFlag = false) ∧
    (s.Inv → s.lpArmed = false → SameButResponse s t)

/-- R142. LPTAKE returns the long-press flag and clears it, in one step; it does not disarm and does not touch the
countdown; repeated at once it returns 0; a raise while the flag is set leaves it set. -/
def Obligations.LptakeReadsAndClears : Prop :=
  ∀ s : State, ∃ t, exec .lptake s = .next t ∧
    Responded (if s.lpFlag then 0x0001 else 0x0000) t ∧ t.lpFlag = false ∧
    t.lpArmed = s.lpArmed ∧ t.lpCnt = s.lpCnt ∧
    SameOsc s t ∧ SameOutput s t ∧ SameClock s t ∧ SameGate s t ∧ t.n = s.n ∧ SameReadings s t ∧ SameAdc s t ∧
    SameEnv s t ∧
    (∃ u, exec .lptake t = .next u ∧ Responded 0x0000 u ∧ u.lpFlag = false) ∧
    (s.lpFlag = true → s.tickStep.lpFlag = true)

/-- R146. After an ARM accepted at TICKCNT = c, the tick steps that raise LP_FLAG (leave it set where it was clear before)
are exactly those numbered `(K - c) + (LONGPRESS_TIME - 1) * K + j * LONGPRESS_TIME * K`, counting from 1. The spec marks
the rule as derived. -/
def Obligations.LongPressSchedule : Prop :=
  ∀ s t : State, s.tickCnt < s.cfg.ticksPerMs → exec .arm s = .next t →
    ∀ m, ({ State.tickStep^[m] t with lpFlag := false } : State).tickStep.lpFlag = true ↔
      ∃ j, m + 1 = (s.cfg.ticksPerMs - s.tickCnt) + (s.cfg.longpressTime.toNat - 1) * s.cfg.ticksPerMs +
        j * s.cfg.longpressTime.toNat * s.cfg.ticksPerMs

/-! ### The tick gate and the status read (spec 43, 60) -/

/-- R143. TMASK closes the gate and responds `00:00`; a tick event then does no tick step and sets TPEND; closing a closed
gate changes nothing but RESP. -/
def Obligations.TmaskClosesGate : Prop :=
  ∀ s : State, ∃ t, exec .tmask s = .next t ∧
    t.tmask = true ∧ t.tpend = s.tpend ∧ Responded 0x0000 t ∧
    SameOsc s t ∧ SameOutput s t ∧ SameClock s t ∧ SameLongPress s t ∧ t.n = s.n ∧ SameReadings s t ∧ SameAdc s t ∧
    SameEnv s t ∧
    t.tickEvent = { t with tpend := true } ∧
    (s.tmask = true → SameButResponse s t)

/-- R144. TUNMASK opens the gate; the one remembered tick step, if any, happens in the same step, on the registers a tick
step writes; with nothing pending no tick step happens. -/
def Obligations.TunmaskOpensGate : Prop :=
  ∀ s : State, ∃ t, exec .tunmask s = .next t ∧
    t.tmask = false ∧ t.tpend = false ∧ Responded 0x0000 t ∧
    (s.tpend = true →
      t.level = s.tickStep.level ∧ t.phaseA = s.tickStep.phaseA ∧ t.phaseB = s.tickStep.phaseB ∧
        t.tickCnt = s.tickStep.tickCnt ∧ t.msFlag = s.tickStep.msFlag ∧ t.lpCnt = s.tickStep.lpCnt ∧
        t.lpFlag = s.tickStep.lpFlag) ∧
    (s.tpend = false → SameOsc s t ∧ SameOutput s t ∧ SameClock s t ∧ SameLongPress s t) ∧
    t.stepA = s.stepA ∧ t.stepB = s.stepB ∧ t.outEn = s.outEn ∧ t.lpArmed = s.lpArmed ∧
    t.n = s.n ∧ SameReadings s t ∧ SameAdc s t ∧ SameEnv s t

/-- R145, R28. STAT returns the status byte, bit by bit, with bits 7:6 zero, and changes nothing but RESP. The spec's
derived remark on bit 0 is part of the invariant (`State.Inv.outEn_iff`). -/
def Obligations.StatReturnsFlags : Prop :=
  ∀ s : State, ∃ t, exec .stat s = .next t ∧
    t.respValid = true ∧ t.seq = .idle ∧ t.respErr = 0x00 ∧
    t.respVal.getLsbD 0 = s.outEn ∧ t.respVal.getLsbD 1 = s.msFlag ∧ t.respVal.getLsbD 2 = s.lpArmed ∧
    t.respVal.getLsbD 3 = s.lpFlag ∧ t.respVal.getLsbD 4 = s.tmask ∧ t.respVal.getLsbD 5 = s.tpend ∧
    t.respVal.getLsbD 6 = false ∧ t.respVal.getLsbD 7 = false ∧
    SameButResponse s t

/-- R204. A tick event is a tick step at an open gate and one remembered event at a closed one; TPEND is set only at a
closed gate and consumed only by TUNMASK (and reset). The derived invariant of the rule is part of `State.Inv`. -/
def Obligations.TickEventGate : Prop :=
  (∀ s : State, (s.tmask = false → s.tickEvent = s.tickStep) ∧
    (s.tmask = true → s.tickEvent = { s with tpend := true })) ∧
  (∀ s t : State, step s = .next t → s.tpend = true → t.tpend = false →
    s.nextEvent = .reset ∨ ∃ w, s.nextEvent = .command w ∧ decode w = .instr .tunmask) ∧
  (∀ s t : State, step s = .next t → s.tpend = false → t.tpend = true → s.nextEvent = .tick ∧ s.tmask = true)

/-- R147. A command that waits under a closed gate never completes: whatever happens but reset, no tick step is
performed and the command still waits. MS_FLAG left set from before serves one millisecond only. The spec marks the
rule as derived. -/
def Obligations.MaskedWaitNeverEnds : Prop :=
  ∀ s u : State, ∀ T, s.tmask = true → s.seq.isWait = true → (s.msFlag = true → 2 ≤ s.n.toNat) →
    RunsTo (fun m => m.nextEvent ≠ .reset) s T u →
    u.seq = s.seq ∧ u.tmask = true ∧ u.respValid = s.respValid ∧ T = 0 ∧ s.n.toNat ≤ u.n.toNat + 1

/-! ### PLAY and SLEEP (spec 41) -/

/-- R101, R202. PLAY: where both steps fit, the steps (C = 0 copies A's), phases at 0 and N are written; with a duration of 0
OUT_EN ends 0 and the response is immediate, else OUT_EN is 1 and the sequencer waits; LEVEL, the flags and all else stay.
Where one does not fit, ERR_RANGE and no part of it is performed. A non-zero Z is illegal, whatever the operands. -/
def Obligations.PlayAccepted : Prop :=
  (∀ (s : State) (d a b : Half), phaseStep s.cfg a ≤ s.cfg.stepMax → phaseStep s.cfg b ≤ s.cfg.stepMax →
    ∃ t, exec (.play d a b) s = .next t ∧
      t.stepA = phaseStep s.cfg a ∧ t.stepB = (if b = 0 then phaseStep s.cfg a else phaseStep s.cfg b) ∧
      t.phaseA = 0 ∧ t.phaseB = 0 ∧ t.n = d ∧
      (d = 0 → t.outEn = false ∧ Responded 0x0000 t) ∧
      (d ≠ 0 → t.outEn = true ∧ t.seq = .playWait ∧ t.respValid = false ∧ t.resp = s.resp) ∧
      t.level = s.level ∧ SameClock s t ∧ SameLongPress s t ∧ SameGate s t ∧ SameReadings s t ∧ SameAdc s t ∧
      SameEnv s t) ∧
  (∀ (s : State) (d a b : Half),
    (s.cfg.stepMax < phaseStep s.cfg a ∨ (b ≠ 0 ∧ s.cfg.stepMax < phaseStep s.cfg b)) →
    ∃ t, exec (.play d a b) s = .next t ∧ Responded 0x0200 t ∧ SameButResponse s t) ∧
  (∀ f : Fields, f.op = 0x01 → f.z ≠ 0 → ∃ why, decodeFields f = .illegal why)

/-- R102. The poll step that brings N to 0 in PLAY_WAIT clears OUT_EN and responds `00:00` in the same step; LEVEL, phases
and steps are not touched, the next tick step writes MID and leaves them again; in reachable states OUT_EN is 1 exactly
while a PLAY waits, and 0 in IDLE. -/
def Obligations.PlayCompletes : Prop :=
  (∀ s : State, s.seq = .playWait → s.msFlag = true → s.n = 1 →
    s.seqTurn.outEn = false ∧ Responded 0x0000 s.seqTurn ∧ s.seqTurn.level = s.level ∧ SameOsc s s.seqTurn ∧
      s.seqTurn.n = 0 ∧ s.seqTurn.msFlag = false ∧ s.seqTurn.tickCnt = s.tickCnt ∧ SameLongPress s s.seqTurn ∧
      SameGate s s.seqTurn ∧ SameReadings s s.seqTurn ∧ SameAdc s s.seqTurn ∧ SameEnv s s.seqTurn ∧
      s.seqTurn.tickStep.level = s.cfg.mid ∧ SameOsc s s.seqTurn.tickStep) ∧
  (∀ s t : State, s.Inv → step s = .next t → (t.outEn = true ↔ t.seq = .playWait))

/-- R104. SLEEP writes N; with n = 0 it responds at once without reading or clearing MS_FLAG, else it waits; each poll step
counts down and the last one responds `00:00`; nothing but N, MS_FLAG, SEQ and the response changes. A non-zero B, C or Z
is illegal. -/
def Obligations.SleepWaits : Prop :=
  (∀ (s : State) (m : Half), ∃ t, exec (.sleep m) s = .next t ∧ t.n = m ∧
    (m = 0 → Responded 0x0000 t) ∧
    (m ≠ 0 → t.seq = .sleepWait ∧ t.respValid = false ∧ t.resp = s.resp) ∧
    SameOsc s t ∧ SameOutput s t ∧ SameClock s t ∧ SameLongPress s t ∧ SameGate s t ∧ SameReadings s t ∧ SameAdc s t ∧
    SameEnv s t) ∧
  (∀ s : State, s.seq = .sleepWait → s.msFlag = true → s.n = 1 →
    Responded 0x0000 s.seqTurn ∧ s.seqTurn.n = 0 ∧ s.seqTurn.msFlag = false ∧ s.seqTurn.tickCnt = s.tickCnt ∧
      SameOsc s s.seqTurn ∧ SameOutput s s.seqTurn ∧ SameLongPress s s.seqTurn ∧ SameGate s s.seqTurn ∧
      SameReadings s s.seqTurn ∧ SameAdc s s.seqTurn ∧ SameEnv s s.seqTurn) ∧
  (∀ s : State, s.seq = .sleepWait → s.msFlag = true → s.n ≠ 1 →
    s.seqTurn = { s with msFlag := false, n := s.n - 1 }) ∧
  (∀ f : Fields, f.op = 0x02 → (f.b ≠ 0 ∨ f.c ≠ 0 ∨ f.z ≠ 0) → ∃ why, decodeFields f = .illegal why)

/-- R103. The poll step, in all three waiting states: with MS_FLAG = 0 the sequencer has no step; with MS_FLAG = 1 the flag
is cleared and N decremented, and where N reaches 0 the wait ends as its state says. Every other register stays. In
reachable states N is at least 1. -/
def Obligations.PollStepConsumesMillisecond : Prop :=
  ∀ s : State, s.seq.isWait = true →
    (s.Inv → 1 ≤ s.n.toNat) ∧
    (s.msFlag = false → s.seqTurn = s) ∧
    (s.msFlag = true → s.n ≠ 1 → s.seqTurn = { s with msFlag := false, n := s.n - 1 }) ∧
    (s.msFlag = true → s.n = 1 → s.seq = .playWait →
      s.seqTurn = { s with
        msFlag := false, n := 0, outEn := false, resp := 0x0000, respValid := true, seq := .idle }) ∧
    (s.msFlag = true → s.n = 1 → s.seq = .sleepWait →
      s.seqTurn = { s with msFlag := false, n := 0, resp := 0x0000, respValid := true, seq := .idle }) ∧
    (s.msFlag = true → s.n = 1 → s.seq = .gkDebounce →
      s.seqTurn = { s with
        msFlag := false, n := 0, s1 := s.adcData, adcBusy := true, adcStartOut := true, seq := .gkConv2 })

/-- R105. A wait of N = n milliseconds, seen from any state of it with TICKCNT = c and MS_FLAG = g: the number T of
tick steps until the poll step that ends it lies within the bounds of R105, under every schedule; MS_FLAG = 0 after it.
Guarantee (c) of R54 is part of the model's step (log 4). The spec marks the rule as derived. -/
def Obligations.WaitLengthBounds : Prop :=
  ∀ s u : State, ∀ T, s.Inv → s.seq.isWait = true → RunsTo State.inWait s T u → u.seq.isWait = false →
    u.msFlag = false ∧
    (s.msFlag = false →
      raiseTick s.cfg.ticksPerMs s.tickCnt s.n.toNat ≤ T ∧
        T + 1 ≤ raiseTick s.cfg.ticksPerMs s.tickCnt s.n.toNat + s.cfg.ticksPerMs) ∧
    (s.msFlag = true →
      raiseTick s.cfg.ticksPerMs s.tickCnt (s.n.toNat - 1) ≤ T ∧
        T + 1 ≤ raiseTick s.cfg.ticksPerMs s.tickCnt s.n.toNat)

/-- R105, R54: a wait ends. While it has not ended, no more tick steps than the upper bound of R105 have been
performed. The spec marks the rule as derived. Guarantee (c) is part of the model's step (log 4). -/
def Obligations.WaitEndsInTime : Prop :=
  ∀ s u : State, ∀ T, s.Inv → s.seq.isWait = true → RunsTo State.inWait s T u → u.seq.isWait = true →
    (s.msFlag = false → T + 1 ≤ raiseTick s.cfg.ticksPerMs s.tickCnt s.n.toNat + s.cfg.ticksPerMs) ∧
    (s.msFlag = true → T + 1 ≤ raiseTick s.cfg.ticksPerMs s.tickCnt s.n.toNat)

/-- R100. `step(f)` is `f * TLS / F_TICK` rounded to the nearest integer, halves up (where F_TICK is odd no half
occurs); `step(0) = 0`; and what is representable is an initial segment of the frequencies. F_TICK has no upper bound
(log 21). -/
def Obligations.PhaseStepRounds : Prop :=
  ∀ (c : Config) (f g : Half),
    phaseStep c f = (f.toNat * c.tls + c.fTick / 2) / c.fTick ∧
    2 * (phaseStep c f * c.fTick) ≤ 2 * (f.toNat * c.tls) + c.fTick ∧
    2 * (f.toNat * c.tls) < 2 * (phaseStep c f * c.fTick) + c.fTick + c.fTick % 2 ∧
    phaseStep c 0 = 0 ∧
    (f.toNat ≤ g.toNat → representable c g = true → representable c f = true)

/-- R106. From its accept to its response CMD_READY is 0, a presented word changes nothing, the tone in progress cannot
be retuned, and only reset ends the command without its response. That such a word is dropped is the model's reading
(log 15). -/
def Obligations.NoCommandWhileBusy : Prop :=
  (∀ s : State, s.seq ≠ .idle → s.ports.cmdReady = false) ∧
  (∀ (s : State) (w : CmdWord), s.nextEvent = .command w → s.seq ≠ .idle →
    step s = .next { s.consume with adcStartOut := false }) ∧
  (∀ s t : State, s.seq ≠ .idle → s.nextEvent ≠ .reset → step s = .next t →
    t.stepA = s.stepA ∧ t.stepB = s.stepB ∧ (t.seq = .idle → t.respValid = true))

/-- R108. Every transition of SEQ is a row of the table, under that row's condition; reset forces IDLE. The spec marks
the rule as derived. -/
def Obligations.SequencerTransitions : Prop :=
  ∀ s t : State, step s = .next t →
    (s.nextEvent = .reset → t.seq = .idle) ∧ (s.nextEvent ≠ .reset → s.seqRule t.seq)

/-- R107. Under a PLAY accepted with steps sA, sB, the m-th tick step (from 1) writes the mean of the two table values
at `(((m - 1) * s) mod TLS) >> FRAC`, the first value is MID, and after T tick steps the phases are `(T * s) mod TLS`.
The spec marks the rule as derived. -/
def Obligations.ToneLevelTrace : Prop :=
  ∀ (s t : State) (d a b : Half), d ≠ 0 → phaseStep s.cfg a ≤ s.cfg.stepMax → phaseStep s.cfg b ≤ s.cfg.stepMax →
    exec (.play d a b) s = .next t →
    ∀ m,
      (State.tickStep^[m] t).phaseA = (m * t.stepA) % s.cfg.tls ∧
      (State.tickStep^[m] t).phaseB = (m * t.stepB) % s.cfg.tls ∧
      (∃ x y : Byte,
        s.cfg.wave[((m * t.stepA) % s.cfg.tls) / 2 ^ s.cfg.frac]? = some x ∧
        s.cfg.wave[((m * t.stepB) % s.cfg.tls) / 2 ^ s.cfg.frac]? = some y ∧
        (State.tickStep^[m + 1] t).level.toNat = (x.toNat + y.toNat) / 2) ∧
      (m = 0 → (State.tickStep^[m + 1] t).level = s.cfg.mid)

/-! ### GETKEY (spec 42) -/

/-- R120. GETKEY's accept step starts a conversion and goes to GK_CONV1; nothing else is written but RESP_VALID. A non-zero A,
B, C or Z is illegal. -/
def Obligations.GetkeyStartsConversion : Prop :=
  (∀ f : Fields, f.op = 0x03 → (f.a ≠ 0 ∨ f.b ≠ 0 ∨ f.c ≠ 0 ∨ f.z ≠ 0) → ∃ why, decodeFields f = .illegal why) ∧
  ∀ s : State, ∃ t, exec .getkey s = .next t ∧
    t.respValid = false ∧ t.adcBusy = true ∧ t.adcStartOut = true ∧ t.seq = .gkConv1 ∧
    t.resp = s.resp ∧ t.adcData = s.adcData ∧ SameOsc s t ∧ SameOutput s t ∧ SameClock s t ∧ SameLongPress s t ∧
    SameGate s t ∧ t.n = s.n ∧ SameReadings s t ∧ SameEnv s t

/-- R121. A running conversion completes with the value the environment gives; while none runs an `ADC_DONE` is
ignored; and the block never starts one while one runs. The spec marks the last clause as derived. -/
def Obligations.ConversionCompletes : Prop :=
  (∀ (s : State) (v : Byte),
    (s.adcBusy = true → s.adcDone v = { s with adcData := v, adcBusy := false }) ∧
    (s.adcBusy = false → s.adcDone v = s)) ∧
  (∀ s t : State, s.Inv → step s = .next t → t.adcStartOut = true → s.adcBusy = false ∧ t.adcBusy = true)

/-- R122. In GK_CONV1 the sequencer waits while ADC_BUSY = 1; then it starts the debounce wait, or, with DEBOUNCE_MS = 0, goes
straight on to the second conversion. -/
def Obligations.FirstConversionDone : Prop :=
  ∀ s : State, s.seq = .gkConv1 →
    (s.adcBusy = true → s.seqTurn = s) ∧
    (s.adcBusy = false → s.cfg.debounceMs ≠ 0 → s.seqTurn = { s with n := s.cfg.debounceMs, seq := .gkDebounce }) ∧
    (s.adcBusy = false → s.cfg.debounceMs = 0 →
      s.seqTurn = { s with s1 := s.adcData, adcBusy := true, adcStartOut := true, seq := .gkConv2 })

/-- R123. The poll step that ends the debounce latches the first reading and starts the second conversion in the same
step; since no conversion runs during the wait, no step of it changes ADC_DATA. The spec marks the last clause as
derived. -/
def Obligations.DebounceLatchesReading : Prop :=
  (∀ s : State, s.seq = .gkDebounce → s.msFlag = true → s.n = 1 →
    s.seqTurn.s1 = s.adcData ∧ s.seqTurn.adcBusy = true ∧ s.seqTurn.adcStartOut = true ∧ s.seqTurn.seq = .gkConv2 ∧
      s.seqTurn.adcData = s.adcData) ∧
  (∀ s t : State, s.Inv → s.seq = .gkDebounce → s.nextEvent ≠ .reset → step s = .next t → t.adcData = s.adcData)

/-- R124. In GK_CONV2 the sequencer waits while ADC_BUSY = 1; then it latches S2; if the readings differ at all it retries from
the first conversion; else it classifies, keeps and returns the key. -/
def Obligations.SecondConversionDone : Prop :=
  ∀ s : State, s.seq = .gkConv2 →
    (s.adcBusy = true → s.seqTurn = s) ∧
    (s.adcBusy = false → s.s1 ≠ s.adcData →
      s.seqTurn = { s with s2 := s.adcData, adcBusy := true, adcStartOut := true, seq := .gkConv1 }) ∧
    (s.adcBusy = false → s.s1 = s.adcData →
      s.seqTurn = { s with
        s2 := s.adcData, key := classify s.cfg s.adcData, resp := 0x00#8 ++ classify s.cfg s.adcData,
        respValid := true, seq := .idle })

/-- R125. classify: below the noise floor 0; inside a band that band's key, whichever band it is; outside all bands 0; never
above 13. -/
def Obligations.ClassifyByBands : Prop :=
  ∀ (c : Config) (r : Byte),
    (r.toNat < c.adcFloor.toNat → classify c r = 0) ∧
    (∀ b ∈ c.bands, b.lo.toNat ≤ r.toNat → r.toNat ≤ b.hi.toNat → classify c r = b.key) ∧
    ((∀ b ∈ c.bands, r.toNat < b.lo.toNat ∨ b.hi.toNat < r.toNat) → classify c r = 0) ∧
    (classify c r).toNat ≤ 13

/-- R127. No step of a GETKEY but a tick step or reset touches the oscillators, the output, the clock's counter, the
long-press registers or the tick gate; and OUT_EN is 0 during a GETKEY. The spec marks the rule as derived. -/
def Obligations.GetkeyLeavesSynthesizer : Prop :=
  ∀ s t : State, s.Inv → (s.seq = .gkConv1 ∨ s.seq = .gkDebounce ∨ s.seq = .gkConv2) →
    s.nextEvent ≠ .tick → s.nextEvent ≠ .reset → step s = .next t →
    SameOsc s t ∧ SameOutput s t ∧ t.tickCnt = s.tickCnt ∧ SameLongPress s t ∧ SameGate s t ∧ t.outEn = false

/-- R128. If every conversion during a GETKEY gives the same value v, it makes one attempt and responds
`OK:classify(v)`. The spec marks the rule as derived. -/
def Obligations.StableReadingGivesKey : Prop :=
  ∀ (s t u : State) (v : Byte) (T : Nat), exec .getkey s = .next t → RunsTo (State.inGetkey v) t T u →
    (u.seq = .gkConv2 → u.adcBusy = false → u.s1 = u.adcData) ∧
    (u.seq = .idle →
      u.respValid = true ∧ u.resp = 0x00#8 ++ classify s.cfg v ∧ u.key = classify s.cfg v ∧ u.s1 = v ∧ u.s2 = v)

/-! ### The tick step (spec 40) -/

/-- R81, R43. While OUT_EN = 1 the tick step samples WAVE at each phase before its advance, inside the table, and writes the
mean of the samples, rounded down. From phases at 0 that is MID. -/
def Obligations.TickSamplesBeforeAdvance : Prop :=
  ∀ s : State, s.outEn = true → s.phaseA < s.cfg.tls → s.phaseB < s.cfg.tls →
    ∃ x y : Byte, s.cfg.wave[s.phaseA / 2 ^ s.cfg.frac]? = some x ∧ s.cfg.wave[s.phaseB / 2 ^ s.cfg.frac]? = some y ∧
      s.tickStep.level.toNat = (x.toNat + y.toNat) / 2 ∧
      (s.phaseA = 0 → s.phaseB = 0 → s.tickStep.level = s.cfg.mid)

/-- R82. Mixing is the average rounded down; equal samples give the sample, and samples that add to 2 * MID give MID.
The spec marks the last two clauses as derived. -/
def Obligations.MixingAverages : Prop :=
  ∀ (c : Config) (x y : Byte),
    (mixSamples x y).toNat = (x.toNat + y.toNat) / 2 ∧ mixSamples x x = x ∧
    (x.toNat + y.toNat = 2 * c.mid.toNat → mixSamples x y = c.mid)

/-- R83. While OUT_EN = 1 each phase is advanced by its own step and wrapped: the sum fits W_PHASE bits, a sum of exactly TLS
becomes 0, and a step of 0 leaves the phase. The steps stay. -/
def Obligations.PhasesAdvanceAndWrap : Prop :=
  ∀ s : State, s.outEn = true → s.phaseA < s.cfg.tls → s.phaseB < s.cfg.tls → s.stepA ≤ s.cfg.stepMax →
    s.stepB ≤ s.cfg.stepMax →
    s.tickStep.phaseA = (if s.cfg.tls ≤ s.phaseA + s.stepA then s.phaseA + s.stepA - s.cfg.tls else s.phaseA + s.stepA) ∧
    s.tickStep.phaseB = (if s.cfg.tls ≤ s.phaseB + s.stepB then s.phaseB + s.stepB - s.cfg.tls else s.phaseB + s.stepB) ∧
    s.phaseA + s.stepA < 2 ^ s.cfg.wPhase ∧ s.phaseB + s.stepB < 2 ^ s.cfg.wPhase ∧
    (s.stepA = 0 → s.tickStep.phaseA = s.phaseA) ∧ (s.stepB = 0 → s.tickStep.phaseB = s.phaseB) ∧
    (s.phaseA + s.stepA = s.cfg.tls → s.tickStep.phaseA = 0) ∧ (s.phaseB + s.stepB = s.cfg.tls → s.tickStep.phaseB = 0) ∧
    s.tickStep.stepA = s.stepA ∧ s.tickStep.stepB = s.stepB

/-- R84. While OUT_EN = 0 the tick step writes MID to LEVEL and freezes the oscillators, whatever they hold; clearing OUT_EN
at a PLAY's completion leaves LEVEL. -/
def Obligations.DisabledOutputIsSilent : Prop :=
  (∀ s : State, s.outEn = false → s.tickStep.level = s.cfg.mid ∧ SameOsc s s.tickStep ∧ s.tickStep.outEn = false) ∧
  (∀ (s : State) (p q u v : Nat), s.outEn = false →
    ({ s with phaseA := p, phaseB := q, stepA := u, stepB := v } : State).tickStep =
      { s.tickStep with phaseA := p, phaseB := q, stepA := u, stepB := v }) ∧
  (∀ s : State, s.seq = .playWait → s.msFlag = true → s.n = 1 → s.seqTurn.outEn = false ∧ s.seqTurn.level = s.level)

/-- R85. TICKCNT counts every tick step, whether or not output is enabled, and wraps at K raising MS_FLAG; out of any K
consecutive tick steps exactly one raises it; a set flag stays set; no command touches the clock (a TUNMASK performs the
remembered tick step). -/
def Obligations.MillisecondClock : Prop :=
  (∀ s : State, s.tickCnt < s.cfg.ticksPerMs →
    (s.tickCnt + 1 = s.cfg.ticksPerMs → s.tickStep.tickCnt = 0 ∧ s.tickStep.msFlag = true) ∧
    (s.tickCnt + 1 ≠ s.cfg.ticksPerMs → s.tickStep.tickCnt = s.tickCnt + 1 ∧ s.tickStep.msFlag = s.msFlag) ∧
    ∃! j, j < s.cfg.ticksPerMs ∧ (State.tickStep^[j] s).clockWraps = true) ∧
  (∀ (s t : State) (i : Instr), i ≠ .tunmask → exec i s = .next t → SameClock s t)

/-- R86. In a tick step that wraps TICKCNT, and only while armed, LP_CNT is decremented; reaching 0 it is reloaded and LP_FLAG
is set. Otherwise neither is touched. It does not depend on MS_FLAG. -/
def Obligations.LongPressCountdown : Prop :=
  ∀ s : State,
    ((s.lpArmed = false ∨ s.tickCnt + 1 ≠ s.cfg.ticksPerMs) →
      s.tickStep.lpCnt = s.lpCnt ∧ s.tickStep.lpFlag = s.lpFlag) ∧
    (s.lpArmed = true → s.tickCnt + 1 = s.cfg.ticksPerMs →
      (s.lpCnt = 1 → s.tickStep.lpCnt = s.cfg.longpressTime ∧ s.tickStep.lpFlag = true) ∧
      (s.lpCnt ≠ 1 → s.tickStep.lpCnt = s.lpCnt - 1 ∧ s.tickStep.lpFlag = s.lpFlag)) ∧
    (∀ b, ({ s with msFlag := b } : State).tickStep.lpCnt = s.tickStep.lpCnt ∧
      ({ s with msFlag := b } : State).tickStep.lpFlag = s.tickStep.lpFlag)

/-- R87. The phase invariant: from phases below TLS and steps at most STEP_MAX, any number of tick steps leave the
phases below TLS. The spec marks the rule as derived. -/
def Obligations.PhaseStaysBelowTls : Prop :=
  ∀ s : State, s.phaseA < s.cfg.tls → s.phaseB < s.cfg.tls → s.stepA ≤ s.cfg.stepMax → s.stepB ≤ s.cfg.stepMax →
    ∀ n, (State.tickStep^[n] s).phaseA < s.cfg.tls ∧ (State.tickStep^[n] s).phaseB < s.cfg.tls

/-- R206, R29. A tick event writes only the registers of the tick step (and TPEND at a closed gate): the sequencer's,
the converter's and the response registers, OUT_EN, the steps, LP_ARMED and TMASK stay. The premise on a poll step is
the model's (log 4). -/
def Obligations.TickEventOwnership : Prop :=
  ∀ s t : State, s.nextEvent = .tick → s.pollsFirst = false → step s = .next t →
    t.seq = s.seq ∧ t.n = s.n ∧ SameReadings s t ∧ SameResp s t ∧ t.adcBusy = s.adcBusy ∧ t.adcData = s.adcData ∧
    t.outEn = s.outEn ∧ t.stepA = s.stepA ∧ t.stepB = s.stepB ∧ t.lpArmed = s.lpArmed ∧ t.tmask = s.tmask ∧
    t.tpend = (s.tpend || s.tmask) ∧ (s.outEn = false → t.phaseA = s.phaseA ∧ t.phaseB = s.phaseB) ∧ t.cfg = s.cfg

/-- R29. What a sequencer step other than TUNMASK's accept may write of the registers the tick step writes: nothing of
LEVEL, TICKCNT and TPEND; MS_FLAG only to 0 and only in a poll step; LP_FLAG only to 0 and only by LPTAKE, ARM and
DISARM; LP_CNT only to LONGPRESS_TIME and only by ARM and DISARM; the phases only both to 0 and only by PLAY. ADC_DATA
is the ADC agent's. How moves are offered is the model's (log 2). -/
def Obligations.SequencerOwnership : Prop :=
  ∀ s t : State, step s = .next t →
    (s.nextEvent = .seqTurn ∨ ∃ w, s.nextEvent = .command w ∧ decode w ≠ .instr .tunmask) →
    t.level = s.level ∧ t.tickCnt = s.tickCnt ∧ t.tpend = s.tpend ∧ t.adcData = s.adcData ∧
    (t.msFlag = s.msFlag ∨ (t.msFlag = false ∧ s.nextEvent = .seqTurn ∧ s.seq.isWait = true)) ∧
    (t.lpFlag = s.lpFlag ∨
      (t.lpFlag = false ∧ ∃ w, s.nextEvent = .command w ∧
        (decode w = .instr .lptake ∨ decode w = .instr .arm ∨ decode w = .instr .disarm))) ∧
    (t.lpCnt = s.lpCnt ∨
      (t.lpCnt = s.cfg.longpressTime ∧ ∃ w, s.nextEvent = .command w ∧
        (decode w = .instr .arm ∨ decode w = .instr .disarm))) ∧
    ((t.phaseA = s.phaseA ∧ t.phaseB = s.phaseB) ∨
      (t.phaseA = 0 ∧ t.phaseB = 0 ∧ ∃ w d a b, s.nextEvent = .command w ∧ decode w = .instr (.play d a b)))

/-- R29. The ADC agent writes ADC_BUSY and ADC_DATA and nothing else. How moves are offered is the model's (log 2, log
3). -/
def Obligations.AdcOwnership : Prop :=
  ∀ (s t : State) (v : Byte), s.nextEvent = .adcDone v → step s = .next t →
    SameOsc s t ∧ SameOutput s t ∧ SameClock s t ∧ SameLongPress s t ∧ SameGate s t ∧ t.seq = s.seq ∧ t.n = s.n ∧
    SameReadings s t ∧ SameResp s t ∧ t.cfg = s.cfg ∧ t.adcBusy = false ∧
    t.adcData = (if s.adcBusy then v else s.adcData)

/-! ### The tables (spec 20) -/

/-- R41, conditions (b) and (c), for every configuration: `WAVE[0] = MID` and the table is symmetric about the midpoint. -/
def Obligations.WaveIsSymmetric : Prop :=
  ∀ c : Config, c.wave.length = 256 ∧ waveRead c 0 = c.mid ∧
    ∀ i, i < 256 → (waveRead c i).toNat + (waveRead c ((i + 128) % 256)).toNat = 2 * c.mid.toNat

/-! ### Encoding (spec 30) -/

/-- Every command's word decodes to that command, with every operand at every value. -/
def Obligations.DecodeEncodeRoundTrip : Prop :=
  ∀ i : Instr, decode (encode i) = .instr i

/-- The other direction: a word that decodes is the word of its command, so no bit of a legal word is ignored. -/
def Obligations.EncodeDecodeRoundTrip : Prop :=
  ∀ (w : CmdWord) (i : Instr), decode w = .instr i → encode i = w

/-- R62, R63. A word is a command exactly when it matches a row, `w AND mask = match`, and it is then that row's command. -/
def Obligations.DecodesIffRowMatches : Prop :=
  (∀ (w : CmdWord) (i : Instr), decode w = .instr i → matchesRow i w = true) ∧
  (∀ (w : CmdWord) (i : Instr), matchesRow i w = true → ∃ j, decode w = .instr j ∧ opcode j = opcode i)

/-- R47. A command written as bytes is read back from the front of any bytes that begin with them. -/
def Obligations.BytesRoundTrip : Prop :=
  ∀ (i : Instr) (rest : List Byte), decodeBytes (encodeBytes i ++ rest) = some (.instr i, rest)

/-- Words written out in the spec decode to the commands they stand for (spec 95 sections 4 to 9, 11). -/
def Obligations.KnownWordsDecode : Prop :=
  decode 0x01004B0384051400 = .instr (.play 75 900 1300) ∧ decode 0x0200220000000000 = .instr (.sleep 34) ∧
  decode 0x0300000000000000 = .instr .getkey ∧ decode 0x0400000000000000 = .instr .arm ∧
  decode 0x0700000000000000 = .instr .tmask ∧ decode 0x0900000000000000 = .instr .stat ∧
  decode 0x0900000000000080 = .illegal .reservedZ ∧ decode 0x0A00000000000000 = .illegal .unknownOpcode ∧
  decode 0x0200050001000000 = .illegal .unusedOperand

/-- R201. A word that matches no row, presented in IDLE, gets ERR_ILLEGAL, and no other register changes. -/
def Obligations.IllegalWordRejected : Prop :=
  ∀ (s : State) (w : CmdWord), s.seq = .idle → (∀ i, matchesRow i w = false) →
    ∃ t, presentWord w s = .next t ∧ Responded 0x0100 t ∧ SameButResponse s t

/-! ### The step (spec 00, 20, 60, 70) -/

/-- A word presented next, in IDLE, that decodes to a command: the step is the command's accept step, on the state with
the move taken and the output event of the step before over. The form of the step is the model's (log 2, log 8, log
11). -/
def Obligations.StepRunsDecoded : Prop :=
  ∀ (s : State) (w : CmdWord) (rest : List Event) (i : Instr), s.inputs = .command w :: rest → s.seq = .idle →
    decode w = .instr i → step s = exec i { s with inputs := rest, adcStartOut := false }

/-- What the step does on every other move: a tick event, a completion, the sequencer's turn, the taking of a response.
Only a tick event waits for a poll step. A drawn move advances the draw counter instead of the list. The form of the
step is the model's (log 2, log 4, log 12). -/
def Obligations.StepTakesMove : Prop :=
  (∀ (s : State) (e : Event) (rest : List Event), s.inputs = e :: rest →
    (e = .tick → s.pollsFirst = false →
      step s = .next ({ s with inputs := rest, adcStartOut := false } : State).tickEvent) ∧
    (∀ v, e = .adcDone v → step s = .next (({ s with inputs := rest, adcStartOut := false } : State).adcDone v)) ∧
    (e = .seqTurn → step s = .next ({ s with inputs := rest, adcStartOut := false } : State).seqTurn) ∧
    (e = .takeResponse → step s = .next { s with inputs := rest, adcStartOut := false })) ∧
  (∀ s : State, s.inputs = [] → (Config.freeEvent s.draws = .tick → s.pollsFirst = false) →
    step s = onEvent (Config.freeEvent s.draws) { s with draws := s.draws + 1, adcStartOut := false })

/-- R54(c), as the model builds it in (log 4): where the next move is a tick event whose tick step would raise MS_FLAG
while a waiting sequencer has not consumed it, the step is the sequencer's poll step, which consumes the flag, and the
tick event is still next. -/
def Obligations.PollGoesBeforeRaise : Prop :=
  ∀ s : State, s.nextEvent = .tick → s.seq.isWait = true → s.msFlag = true → s.tmask = false →
    s.tickCnt + 1 = s.cfg.ticksPerMs →
    step s = .next ({ s with adcStartOut := false } : State).seqTurn ∧
    ({ s with adcStartOut := false } : State).seqTurn.nextEvent = .tick ∧
    ({ s with adcStartOut := false } : State).seqTurn.inputs = s.inputs ∧
    ({ s with adcStartOut := false } : State).seqTurn.draws = s.draws ∧
    ({ s with adcStartOut := false } : State).seqTurn.msFlag = false

/-- R216. Every state has a successor: no step faults and none refuses. R216 speaks of reachable states and enabled steps;
that a move with no enabled step answers a next state too is the model's choice (log 3). -/
def Obligations.EveryStateSteps : Prop :=
  ∀ s : State, ∃ t, step s = .next t

/-- R54, R103. Under the progress guarantees every wait ends at an open gate: a GK_DEBOUNCE in GK_CONV2, any other wait with
its response. The guarantees are conditions on infinite runs, but for (c), which the step builds in (log 4, log 5). -/
def Obligations.FairRunsEndWaits : Prop :=
  ∀ (st : Nat → State) (mv : Nat → Event), IsRun st mv → Fair st mv → (∀ k, mv k ≠ .reset) →
    (st 0).Inv → (st 0).seq.isWait = true → (st 0).tmask = false →
    ∃ k, ((st 0).seq = .gkDebounce → (st k).seq = .gkConv2) ∧
      ((st 0).seq ≠ .gkDebounce → (st k).seq = .idle ∧ (st k).respValid = true)

/-- R54, R128. Under the progress guarantees a GETKEY whose conversions all give `v` ends, at an open gate, with the response
`00:classify(v)`. The guarantees are conditions on infinite runs, but for (c), which the step builds in (log 4, log 5).
The spec marks R128 as derived. -/
def Obligations.FairRunsEndGetkey : Prop :=
  ∀ (st : Nat → State) (mv : Nat → Event) (v : Byte), IsRun st mv → Fair st mv → (∀ k, mv k ≠ .reset) →
    (∀ k x, mv k = .adcDone x → x = v) → (st 0).Inv → (st 0).seq = .gkConv1 → (st 0).adcBusy = true →
    (st 0).tmask = false →
    ∃ k, (st k).seq = .idle ∧ (st k).respValid = true ∧ (st k).resp = 0x00#8 ++ classify (st 0).cfg v

/-- R32, R230. No step changes the configuration, and with it the two tables. That State carries it is the model's (log
1). -/
def Obligations.ConfigurationNeverChanges : Prop :=
  ∀ s t : State, step s = .next t → t.cfg = s.cfg

/-- R1, with the conditions of R41 and R44 on the two tables: raw parameters are well-formed exactly when every constraint
of the table holds; well-formed ones become a machine in its reset state, all others are refused. The derived
parameters have the values of the table. That a machine starts from reset is the model's (log 10). -/
def Obligations.IllFormedConfigRefused : Prop :=
  (∀ p : Params, p.wf = true ↔
    p.nTab = 256 ∧ p.wSample = 8 ∧ 1 ≤ p.mid.toNat ∧ p.mid.toNat ≤ 254 ∧
    (p.wave.length = 256 ∧ p.wave[0]? = some p.mid ∧
      ∀ i x y, p.wave[i]? = some x → p.wave[(i + 128) % 256]? = some y → x.toNat + y.toNat = 2 * p.mid.toNat) ∧
    p.frac ≤ 23 ∧ 1000 ≤ p.fTick ∧ p.mix = .avg ∧ 1 ≤ p.longpressTime.toNat ∧ p.nKeys = 13 ∧
    (p.bands.length = 13 ∧ (∀ b ∈ p.bands, b.lo.toNat ≤ b.hi.toNat ∧ p.adcFloor.toNat ≤ b.lo.toNat) ∧
      (∀ j b c, p.bands[j]? = some b → p.bands[j + 1]? = some c → c.lo.toNat = b.hi.toNat + 1) ∧
      ∀ k, 1 ≤ k → k ≤ 13 → (p.bands.map fun b => b.key.toNat).count k = 1)) ∧
  (∀ p : Params, p.wf = false → powerOn p = .refused .illFormedConfig) ∧
  (∀ c : Config, powerOn c.toParams = .next (State.ofConfig c)) ∧
  (∀ p : Params, p.tls = p.nTab * 2 ^ p.frac ∧ p.stepMax = p.tls - 1 ∧ p.wStep = 8 + p.frac ∧
    p.wPhase = 9 + p.frac ∧ p.ticksPerMs = p.fTick / 1000 ∧ (p.wf = true → 1 ≤ p.ticksPerMs))

/-- R230. Reset, in any state, writes every register its reset value; the configuration stays; a late `ADC_DONE` is ignored;
as the ports show it the block is ready, silent and has no response. -/
def Obligations.ResetWritesEveryRegister : Prop :=
  ∀ s : State, s.nextEvent = .reset → ∃ t, step s = .next t ∧
    t.phaseA = 0 ∧ t.phaseB = 0 ∧ t.stepA = 0 ∧ t.stepB = 0 ∧ t.outEn = false ∧ t.level = s.cfg.mid ∧
    t.tickCnt = 0 ∧ t.msFlag = false ∧ t.lpArmed = false ∧ t.lpCnt = s.cfg.longpressTime ∧ t.lpFlag = false ∧
    t.tmask = false ∧ t.tpend = false ∧ t.seq = .idle ∧ t.n = 0 ∧ t.s1 = 0 ∧ t.s2 = 0 ∧ t.key = 0 ∧
    t.adcBusy = false ∧ t.adcData = 0 ∧ t.resp = 0x0000 ∧ t.respValid = false ∧ t.adcStartOut = false ∧
    t.cfg = s.cfg ∧ (∀ v, t.adcDone v = t) ∧ t.cmdReady = true

/-- The invariant holds after reset, under every well-formed configuration. That State.reset carries REF is the model's
choice (log 1). -/
def Obligations.ResetMeetsInvariant : Prop :=
  State.reset.Inv ∧ ∀ c : Config, (State.ofConfig c).Inv

/-- Every step, whatever the move, keeps the invariant (R12, R15, R18, R23, R25, R26, R102, R204, R65 among its parts).
The form of the step is the model's (log 2, log 4). -/
def Obligations.StepKeepsInvariant : Prop :=
  ∀ s t : State, s.Inv → step s = .next t → t.Inv

/-! ### The host contract (spec 45), outside the block -/

/-- R168. Whatever is inserted, the ring buffer holds at most its capacity: the oldest keys under one policy, the newest under
the other, in insertion order. -/
def Obligations.RingBufferBounded : Prop :=
  ∀ ks : List Byte,
    (ks.foldl (Ring.insert .rejectWhenFull) Ring.init).keys = ks.take 40 ∧
    (ks.foldl (Ring.insert .dropOldest) Ring.init).keys = ks.drop (ks.length - 40) ∧
    ∀ policy, (ks.foldl (Ring.insert policy) Ring.init).count ≤ 40

/-- R170. Storing at most 40 keys under a mode to a key's chunk, then reading it back, gives the same sequence and mode; every
byte outside the chunk stays; the store keeps its canonical form. -/
def Obligations.ChunkRoundTrip : Prop :=
  ∀ (m : Store) (codes : ModeCodes) (mode : ToneMode) (key : Byte) (r : Ring),
    m.wf = true → codes.wf = true → 1 ≤ key.toNat → key.toNat ≤ 12 → r.keys.length ≤ 40 →
    (∀ k ∈ r.keys, k ≠ eraseSentinel) →
    ∃ m', m.storeChunk codes mode key r = some m' ∧ m'.wf = true ∧ m'.readChunk codes key = some (mode, r.keys) ∧
      ∀ a, (a < 3 + (key.toNat - 1) * 41 ∨ 3 + (key.toNat - 1) * 41 + 41 ≤ a) → m'.read a = m.read a

/-- R171. A chunk whose first byte is the erase sentinel, or any byte outside the valid modes, is never played: playback issues
no command at all. -/
def Obligations.InvalidChunkIsSilent : Prop :=
  ∀ (m : Store) (codes : ModeCodes) (t : ToneTable) (len : Half) (key b : Byte),
    codes.wf = true → 1 ≤ key.toNat → key.toNat ≤ 12 → m.read (3 + (key.toNat - 1) * 41) = some b →
    (b = eraseSentinel ∨ codes.modeOf b = none) → m.playback codes t len key = []

/-- R172, at STARTUP (R174). Each header byte falls back on its own, to MF and to the shorter of the two lengths, and the bytes
stay as they are in the store; after a header of (0xFF, 0xFF) both chirps sound before the first key is read. That the
mode's chirp comes first is the model's choice (log 27). -/
def Obligations.HeaderFallsBack : Prop :=
  ∀ (c : Config) (p : HostParams) (l : Loop), p.wf c = true →
    (l.startup p).mode = (p.codes.modeOf (l.headerByte modeAddress)).getD .mf ∧
    (l.startup p).toneLength = (p.lengths.lengthOf (l.headerByte lengthAddress)).getD p.lengths.fastMs ∧
    p.lengths.fastMs.toNat < p.lengths.slowMs.toNat ∧
    (l.startup p).store = l.store ∧
    (l.headerByte modeAddress = eraseSentinel → l.headerByte lengthAddress = eraseSentinel →
      (l.startup p).mode = .mf ∧ (l.startup p).toneLength = p.lengths.fastMs ∧
      (l.startup p).todo = issues (p.modeChirp ++ p.lengthChirp ++ [Instr.getkey]))

/-- R160, R173. A call issues its one command and returns when its response is taken: with the call in progress and no
response the host does nothing, with one it takes VAL. Two clauses are the model's choice: that taking a response leaves
every register of the block, RESP_VALID among them (log 12), and that on RESET the loop boots again and the call is over
(log 29). -/
def Obligations.HostWaitsForResponse : Prop :=
  ∀ (p : HostParams) (x : Product),
    (x.loop.awaiting = true → x.block.respValid = false → x.hostMove p = .next x) ∧
    (x.loop.awaiting = true → x.block.respValid = true →
      x.hostMove p = .next
        { block := { x.block with adcStartOut := false }
          loop := { x.loop with awaiting := false, answer := x.block.respVal } }) ∧
    (∀ i rest b, x.loop.awaiting = false → x.loop.todo = .issue i :: rest → x.block.seq = .idle →
      x.block.take (.command (encode i)) = .next b →
      x.hostMove p = .next { block := b, loop := { x.loop with todo := rest, awaiting := true } }) ∧
    (∀ b, x.block.take .reset = .next b →
      x.blockMove p .reset = .next { block := b, loop := Loop.boot p x.loop.store })
end

