-- ==== Sys2Proof/Laws/Config.lean ====
section
/-! SUPPORT. What well-formedness gives (spec 00_scope R1, 20_memory R41, R44), once. -/

namespace Sys2Proof

variable (c : Config)

/-- The constraints of R1, one by one. -/
theorem Config.constraints :
    c.nTab = 256 ∧ c.wSample = 8 ∧ 1 ≤ c.mid.toNat ∧ c.mid.toNat ≤ 254 ∧ c.waveWf = true ∧ c.frac ≤ 23 ∧
      1000 ≤ c.fTick ∧ c.mix = .avg ∧ 1 ≤ c.longpressTime.toNat ∧ c.nKeys = 13 ∧ c.bandsWf = true := by
  have h := c.ok
  simp only [Params.wf, Bool.and_eq_true, beq_iff_eq, decide_eq_true_eq] at h
  tauto

theorem Config.tls_eq : c.tls = 256 * 2 ^ c.frac := by
  simp [Params.tls, c.constraints.1]

theorem Config.tls_pos : 0 < c.tls := by
  rw [c.tls_eq]; positivity

theorem Config.ticksPerMs_pos : 1 ≤ c.ticksPerMs := by
  have := c.constraints.2.2.2.2.2.2.1
  simp only [Params.ticksPerMs]; omega

theorem Config.fTick_pos : 0 < c.fTick := by
  have := c.constraints.2.2.2.2.2.2.1
  omega

theorem Config.longpress_pos : 1 ≤ c.longpressTime.toNat := c.constraints.2.2.2.2.2.2.2.2.1

theorem Config.wave_length : c.wave.length = 256 := by
  have h := c.constraints.2.2.2.2.1
  simp only [Params.waveWf, Bool.and_eq_true, beq_iff_eq] at h
  exact h.1.1

/-- Every index of a phase below TLS is inside the table (spec 20_memory R43). -/
theorem Config.index_lt {p : Nat} (h : p < c.tls) : Machine.waveIndex c p < 256 := by
  rw [c.tls_eq] at h
  exact Nat.div_lt_of_lt_mul (by rwa [Nat.mul_comm] at h)

/-- The four conditions of the band table (spec 20_memory R44). -/
theorem Config.band_facts :
    c.bands.length = 13 ∧ (∀ b ∈ c.bands, b.lo.toNat ≤ b.hi.toNat ∧ c.adcFloor.toNat ≤ b.lo.toNat) ∧
      bandsContiguous c.bands = true ∧
      ∀ k < 13, (c.bands.filter (fun b => b.key.toNat == k + 1)).length = 1 := by
  have h := c.constraints.2.2.2.2.2.2.2.2.2.2
  have hk := c.constraints.2.2.2.2.2.2.2.2.2.1
  simp only [Params.bandsWf, Bool.and_eq_true, beq_iff_eq, List.all_eq_true, decide_eq_true_eq, List.mem_range,
    hk] at h
  exact ⟨h.1.1.1, h.1.1.2, h.1.2, h.2⟩

/-- Counting a list's entries code by code, for the codes 1 to `m`. -/
theorem count_keys (bs : List Band) (m : Nat) :
    ((List.range m).map fun k => bs.countP (fun b => b.key.toNat == k + 1)).sum =
      bs.countP (fun b => decide (1 ≤ b.key.toNat ∧ b.key.toNat ≤ m)) := by
  induction bs with
  | nil => simp
  | cons b rest ih =>
    simp only [List.countP_cons, List.sum_map_add, ih, beq_iff_eq, decide_eq_true_eq]
    congr 1
    clear ih
    induction m with
    | zero => simp; omega
    | succ m ihm =>
      rw [List.range_succ, List.map_append, List.sum_append, ihm]
      simp only [List.map_cons, List.map_nil, List.sum_cons, List.sum_nil]
      split_ifs <;> omega

/-- Every key of the band table is one of 1 to 13 (spec 20_memory R44(d)): thirteen entries, and each of the thirteen
codes once. -/
theorem Config.band_keys : ∀ b ∈ c.bands, 1 ≤ b.key.toNat ∧ b.key.toNat ≤ 13 := by
  obtain ⟨hlen, -, -, honce⟩ := c.band_facts
  have hsum := count_keys c.bands 13
  rw [List.map_congr_left (g := fun _ => 1)
    (by intro k hk; rw [List.countP_eq_length_filter]; exact honce k (by simpa using hk))] at hsum
  have hall : c.bands.countP (fun b => decide (1 ≤ b.key.toNat ∧ b.key.toNat ≤ 13)) = c.bands.length := by
    rw [← hsum, hlen]; rfl
  intro b hb
  simpa using List.countP_eq_length.mp hall b hb

end Sys2Proof
end

