-- ==== Sys2Proof/Laws/Drain.lean ====
section
/-! SUPPORT. What the drain of the ring buffer into the chunk buffer does (spec 45_host_contract R167, R170). -/

namespace Sys2Proof.Machine

/-- As many `remove`s as there are keys move them all, the oldest first, and leave the ring buffer empty. -/
theorem Loop.drainKey_all (l : Loop) :
    Loop.drainKey^[l.ring.count] l = { l with ring := Ring.init, chunk := l.chunk ++ l.ring.keys } := by
  obtain ⟨keys, hk⟩ : ∃ keys, keys = l.ring.keys := ⟨_, rfl⟩
  induction keys generalizing l with
  | nil => cases l; rename_i r _ _ _; cases r; simp_all [Ring.count, Ring.init]
  | cons k ks ih =>
    have h := ih { l with ring := { keys := ks }, chunk := l.chunk ++ [k] } rfl
    have hd : l.drainKey = { l with ring := { keys := ks }, chunk := l.chunk ++ [k] } := by
      simp [Loop.drainKey, Ring.remove, ← hk]
    rw [Ring.count, ← hk, List.length_cons, Function.iterate_succ_apply, hd]
    simpa [Ring.count, ← hk] using h

/-- So the chunk buffer, begun with the mode and padded at the end, is the chunk's image. -/
theorem Loop.drained_chunk (l : Loop) (mode : Byte) :
    padChunk (Loop.drainKey^[l.ring.count] { l with chunk := [mode] }).chunk = chunkImage mode l.ring.keys := by
  rw [show l.ring.count = ({ l with chunk := [mode] } : Loop).ring.count from rfl, Loop.drainKey_all]
  rfl

end Sys2Proof.Machine
end

