-- ==== Sys2Proof/Laws/Word.lean ====
section
/-! SUPPORT. The bits of a command word by field (spec 30_encoding R60). -/

namespace Sys2Proof

/-- Which field each bit of a word belongs to (R60). -/
theorem wordOf_getLsbD (f : Fields) (i : Nat) :
    (wordOf f).getLsbD i =
      if i < 8 then f.z.getLsbD i else if i < 24 then f.c.getLsbD (i - 8)
      else if i < 40 then f.b.getLsbD (i - 24) else if i < 56 then f.a.getLsbD (i - 40)
      else f.op.getLsbD (i - 56) := by
  change (f.op ++ f.a ++ f.b ++ f.c ++ f.z : BitVec (8 + 16 + 16 + 16 + 8)).getLsbD i = _
  simp only [BitVec.getLsbD_append, Nat.sub_sub]
  split_ifs <;> first | rfl | omega

end Sys2Proof
end

