-- ==== Sys2Proof/Laws/PerInstr.lean ====
section
/-! SUPPORT. Statements about every instruction as syntax, one lemma per constructor. -/

namespace Sys2Proof.Laws.Encoding

/-- The word of a command is one of its own row's words (spec 30_encoding R62), and its fields pass the checks (1) to (3)
of R64. -/
def Statement (i : Instr) : Prop := matchesRow i (encode i) = true ∧ (instrFields i).wellFormed = true

theorem play (a b c : Half) : Statement (.play a b c) := by
  refine ⟨?_, rfl⟩
  rw [matchesRow, beq_iff_eq]
  refine BitVec.eq_of_getLsbD_eq fun i hi => ?_
  rw [BitVec.getLsbD_and, encode, wordOf_getLsbD]
  interval_cases i <;> simp [instrFields, opcode, rowMask, rowMatch]

theorem sleep (n : Half) : Statement (.sleep n) := by
  refine ⟨?_, rfl⟩
  rw [matchesRow, beq_iff_eq]
  refine BitVec.eq_of_getLsbD_eq fun i hi => ?_
  rw [BitVec.getLsbD_and, encode, wordOf_getLsbD]
  interval_cases i <;> simp [instrFields, opcode, rowMask, rowMatch]

theorem getkey : Statement .getkey := ⟨by decide, by decide⟩
theorem arm : Statement .arm := ⟨by decide, by decide⟩
theorem disarm : Statement .disarm := ⟨by decide, by decide⟩
theorem lptake : Statement .lptake := ⟨by decide, by decide⟩
theorem tmask : Statement .tmask := ⟨by decide, by decide⟩
theorem tunmask : Statement .tunmask := ⟨by decide, by decide⟩
theorem stat : Statement .stat := ⟨by decide, by decide⟩

end Sys2Proof.Laws.Encoding
end

