-- ==== Sys2Proof/Laws/State.lean ====
section
/-! SUPPORT. The small laws of the named operations, one per field: what an update writes, and the fields it leaves as they
were. They are tagged for simp, so that no later proof unfolds a record update. -/

namespace Sys2Proof.Machine

set_option Elab.async false

variable (s : State)

/-! ### beginAccept -/

@[simp] theorem State.beginAccept_phaseA : s.beginAccept.phaseA = s.phaseA := rfl
@[simp] theorem State.beginAccept_phaseB : s.beginAccept.phaseB = s.phaseB := rfl
@[simp] theorem State.beginAccept_stepA : s.beginAccept.stepA = s.stepA := rfl
@[simp] theorem State.beginAccept_stepB : s.beginAccept.stepB = s.stepB := rfl
@[simp] theorem State.beginAccept_outEn : s.beginAccept.outEn = s.outEn := rfl
@[simp] theorem State.beginAccept_level : s.beginAccept.level = s.level := rfl
@[simp] theorem State.beginAccept_tickCnt : s.beginAccept.tickCnt = s.tickCnt := rfl
@[simp] theorem State.beginAccept_msFlag : s.beginAccept.msFlag = s.msFlag := rfl
@[simp] theorem State.beginAccept_lpArmed : s.beginAccept.lpArmed = s.lpArmed := rfl
@[simp] theorem State.beginAccept_lpCnt : s.beginAccept.lpCnt = s.lpCnt := rfl
@[simp] theorem State.beginAccept_lpFlag : s.beginAccept.lpFlag = s.lpFlag := rfl
@[simp] theorem State.beginAccept_tmask : s.beginAccept.tmask = s.tmask := rfl
@[simp] theorem State.beginAccept_tpend : s.beginAccept.tpend = s.tpend := rfl
@[simp] theorem State.beginAccept_seq : s.beginAccept.seq = s.seq := rfl
@[simp] theorem State.beginAccept_n : s.beginAccept.n = s.n := rfl
@[simp] theorem State.beginAccept_s1 : s.beginAccept.s1 = s.s1 := rfl
@[simp] theorem State.beginAccept_s2 : s.beginAccept.s2 = s.s2 := rfl
@[simp] theorem State.beginAccept_key : s.beginAccept.key = s.key := rfl
@[simp] theorem State.beginAccept_adcBusy : s.beginAccept.adcBusy = s.adcBusy := rfl
@[simp] theorem State.beginAccept_adcData : s.beginAccept.adcData = s.adcData := rfl
@[simp] theorem State.beginAccept_resp : s.beginAccept.resp = s.resp := rfl
@[simp] theorem State.beginAccept_respValid : s.beginAccept.respValid = false := rfl
@[simp] theorem State.beginAccept_adcStartOut : s.beginAccept.adcStartOut = s.adcStartOut := rfl
@[simp] theorem State.beginAccept_cfg : s.beginAccept.cfg = s.cfg := rfl
@[simp] theorem State.beginAccept_inputs : s.beginAccept.inputs = s.inputs := rfl
@[simp] theorem State.beginAccept_draws : s.beginAccept.draws = s.draws := rfl

/-! ### respond -/

@[simp] theorem State.respond_phaseA (e : Err) (v : Byte) : (s.respond e v).phaseA = s.phaseA := rfl
@[simp] theorem State.respond_phaseB (e : Err) (v : Byte) : (s.respond e v).phaseB = s.phaseB := rfl
@[simp] theorem State.respond_stepA (e : Err) (v : Byte) : (s.respond e v).stepA = s.stepA := rfl
@[simp] theorem State.respond_stepB (e : Err) (v : Byte) : (s.respond e v).stepB = s.stepB := rfl
@[simp] theorem State.respond_outEn (e : Err) (v : Byte) : (s.respond e v).outEn = s.outEn := rfl
@[simp] theorem State.respond_level (e : Err) (v : Byte) : (s.respond e v).level = s.level := rfl
@[simp] theorem State.respond_tickCnt (e : Err) (v : Byte) : (s.respond e v).tickCnt = s.tickCnt := rfl
@[simp] theorem State.respond_msFlag (e : Err) (v : Byte) : (s.respond e v).msFlag = s.msFlag := rfl
@[simp] theorem State.respond_lpArmed (e : Err) (v : Byte) : (s.respond e v).lpArmed = s.lpArmed := rfl
@[simp] theorem State.respond_lpCnt (e : Err) (v : Byte) : (s.respond e v).lpCnt = s.lpCnt := rfl
@[simp] theorem State.respond_lpFlag (e : Err) (v : Byte) : (s.respond e v).lpFlag = s.lpFlag := rfl
@[simp] theorem State.respond_tmask (e : Err) (v : Byte) : (s.respond e v).tmask = s.tmask := rfl
@[simp] theorem State.respond_tpend (e : Err) (v : Byte) : (s.respond e v).tpend = s.tpend := rfl
@[simp] theorem State.respond_seq (e : Err) (v : Byte) : (s.respond e v).seq = .idle := rfl
@[simp] theorem State.respond_n (e : Err) (v : Byte) : (s.respond e v).n = s.n := rfl
@[simp] theorem State.respond_s1 (e : Err) (v : Byte) : (s.respond e v).s1 = s.s1 := rfl
@[simp] theorem State.respond_s2 (e : Err) (v : Byte) : (s.respond e v).s2 = s.s2 := rfl
@[simp] theorem State.respond_key (e : Err) (v : Byte) : (s.respond e v).key = s.key := rfl
@[simp] theorem State.respond_adcBusy (e : Err) (v : Byte) : (s.respond e v).adcBusy = s.adcBusy := rfl
@[simp] theorem State.respond_adcData (e : Err) (v : Byte) : (s.respond e v).adcData = s.adcData := rfl
@[simp] theorem State.respond_resp (e : Err) (v : Byte) : (s.respond e v).resp = respWord e v := rfl
@[simp] theorem State.respond_respValid (e : Err) (v : Byte) : (s.respond e v).respValid = true := rfl
@[simp] theorem State.respond_adcStartOut (e : Err) (v : Byte) : (s.respond e v).adcStartOut = s.adcStartOut := rfl
@[simp] theorem State.respond_cfg (e : Err) (v : Byte) : (s.respond e v).cfg = s.cfg := rfl
@[simp] theorem State.respond_inputs (e : Err) (v : Byte) : (s.respond e v).inputs = s.inputs := rfl
@[simp] theorem State.respond_draws (e : Err) (v : Byte) : (s.respond e v).draws = s.draws := rfl

/-! ### reject -/

@[simp] theorem State.reject_phaseA (e : Err) : (s.reject e).phaseA = s.phaseA := rfl
@[simp] theorem State.reject_phaseB (e : Err) : (s.reject e).phaseB = s.phaseB := rfl
@[simp] theorem State.reject_stepA (e : Err) : (s.reject e).stepA = s.stepA := rfl
@[simp] theorem State.reject_stepB (e : Err) : (s.reject e).stepB = s.stepB := rfl
@[simp] theorem State.reject_outEn (e : Err) : (s.reject e).outEn = s.outEn := rfl
@[simp] theorem State.reject_level (e : Err) : (s.reject e).level = s.level := rfl
@[simp] theorem State.reject_tickCnt (e : Err) : (s.reject e).tickCnt = s.tickCnt := rfl
@[simp] theorem State.reject_msFlag (e : Err) : (s.reject e).msFlag = s.msFlag := rfl
@[simp] theorem State.reject_lpArmed (e : Err) : (s.reject e).lpArmed = s.lpArmed := rfl
@[simp] theorem State.reject_lpCnt (e : Err) : (s.reject e).lpCnt = s.lpCnt := rfl
@[simp] theorem State.reject_lpFlag (e : Err) : (s.reject e).lpFlag = s.lpFlag := rfl
@[simp] theorem State.reject_tmask (e : Err) : (s.reject e).tmask = s.tmask := rfl
@[simp] theorem State.reject_tpend (e : Err) : (s.reject e).tpend = s.tpend := rfl
@[simp] theorem State.reject_seq (e : Err) : (s.reject e).seq = .idle := rfl
@[simp] theorem State.reject_n (e : Err) : (s.reject e).n = s.n := rfl
@[simp] theorem State.reject_s1 (e : Err) : (s.reject e).s1 = s.s1 := rfl
@[simp] theorem State.reject_s2 (e : Err) : (s.reject e).s2 = s.s2 := rfl
@[simp] theorem State.reject_key (e : Err) : (s.reject e).key = s.key := rfl
@[simp] theorem State.reject_adcBusy (e : Err) : (s.reject e).adcBusy = s.adcBusy := rfl
@[simp] theorem State.reject_adcData (e : Err) : (s.reject e).adcData = s.adcData := rfl
@[simp] theorem State.reject_resp (e : Err) : (s.reject e).resp = respWord e 0 := rfl
@[simp] theorem State.reject_respValid (e : Err) : (s.reject e).respValid = true := rfl
@[simp] theorem State.reject_adcStartOut (e : Err) : (s.reject e).adcStartOut = s.adcStartOut := rfl
@[simp] theorem State.reject_cfg (e : Err) : (s.reject e).cfg = s.cfg := rfl
@[simp] theorem State.reject_inputs (e : Err) : (s.reject e).inputs = s.inputs := rfl
@[simp] theorem State.reject_draws (e : Err) : (s.reject e).draws = s.draws := rfl

/-! ### await -/

@[simp] theorem State.await_phaseA (m : Half) (q : Seq) : (s.await m q).phaseA = s.phaseA := rfl
@[simp] theorem State.await_phaseB (m : Half) (q : Seq) : (s.await m q).phaseB = s.phaseB := rfl
@[simp] theorem State.await_stepA (m : Half) (q : Seq) : (s.await m q).stepA = s.stepA := rfl
@[simp] theorem State.await_stepB (m : Half) (q : Seq) : (s.await m q).stepB = s.stepB := rfl
@[simp] theorem State.await_outEn (m : Half) (q : Seq) : (s.await m q).outEn = s.outEn := rfl
@[simp] theorem State.await_level (m : Half) (q : Seq) : (s.await m q).level = s.level := rfl
@[simp] theorem State.await_tickCnt (m : Half) (q : Seq) : (s.await m q).tickCnt = s.tickCnt := rfl
@[simp] theorem State.await_msFlag (m : Half) (q : Seq) : (s.await m q).msFlag = s.msFlag := rfl
@[simp] theorem State.await_lpArmed (m : Half) (q : Seq) : (s.await m q).lpArmed = s.lpArmed := rfl
@[simp] theorem State.await_lpCnt (m : Half) (q : Seq) : (s.await m q).lpCnt = s.lpCnt := rfl
@[simp] theorem State.await_lpFlag (m : Half) (q : Seq) : (s.await m q).lpFlag = s.lpFlag := rfl
@[simp] theorem State.await_tmask (m : Half) (q : Seq) : (s.await m q).tmask = s.tmask := rfl
@[simp] theorem State.await_tpend (m : Half) (q : Seq) : (s.await m q).tpend = s.tpend := rfl
@[simp] theorem State.await_seq (m : Half) (q : Seq) : (s.await m q).seq = q := rfl
@[simp] theorem State.await_n (m : Half) (q : Seq) : (s.await m q).n = m := rfl
@[simp] theorem State.await_s1 (m : Half) (q : Seq) : (s.await m q).s1 = s.s1 := rfl
@[simp] theorem State.await_s2 (m : Half) (q : Seq) : (s.await m q).s2 = s.s2 := rfl
@[simp] theorem State.await_key (m : Half) (q : Seq) : (s.await m q).key = s.key := rfl
@[simp] theorem State.await_adcBusy (m : Half) (q : Seq) : (s.await m q).adcBusy = s.adcBusy := rfl
@[simp] theorem State.await_adcData (m : Half) (q : Seq) : (s.await m q).adcData = s.adcData := rfl
@[simp] theorem State.await_resp (m : Half) (q : Seq) : (s.await m q).resp = s.resp := rfl
@[simp] theorem State.await_respValid (m : Half) (q : Seq) : (s.await m q).respValid = s.respValid := rfl
@[simp] theorem State.await_adcStartOut (m : Half) (q : Seq) : (s.await m q).adcStartOut = s.adcStartOut := rfl
@[simp] theorem State.await_cfg (m : Half) (q : Seq) : (s.await m q).cfg = s.cfg := rfl
@[simp] theorem State.await_inputs (m : Half) (q : Seq) : (s.await m q).inputs = s.inputs := rfl
@[simp] theorem State.await_draws (m : Half) (q : Seq) : (s.await m q).draws = s.draws := rfl

/-! ### adcStart -/

@[simp] theorem State.adcStart_phaseA : s.adcStart.phaseA = s.phaseA := rfl
@[simp] theorem State.adcStart_phaseB : s.adcStart.phaseB = s.phaseB := rfl
@[simp] theorem State.adcStart_stepA : s.adcStart.stepA = s.stepA := rfl
@[simp] theorem State.adcStart_stepB : s.adcStart.stepB = s.stepB := rfl
@[simp] theorem State.adcStart_outEn : s.adcStart.outEn = s.outEn := rfl
@[simp] theorem State.adcStart_level : s.adcStart.level = s.level := rfl
@[simp] theorem State.adcStart_tickCnt : s.adcStart.tickCnt = s.tickCnt := rfl
@[simp] theorem State.adcStart_msFlag : s.adcStart.msFlag = s.msFlag := rfl
@[simp] theorem State.adcStart_lpArmed : s.adcStart.lpArmed = s.lpArmed := rfl
@[simp] theorem State.adcStart_lpCnt : s.adcStart.lpCnt = s.lpCnt := rfl
@[simp] theorem State.adcStart_lpFlag : s.adcStart.lpFlag = s.lpFlag := rfl
@[simp] theorem State.adcStart_tmask : s.adcStart.tmask = s.tmask := rfl
@[simp] theorem State.adcStart_tpend : s.adcStart.tpend = s.tpend := rfl
@[simp] theorem State.adcStart_seq : s.adcStart.seq = s.seq := rfl
@[simp] theorem State.adcStart_n : s.adcStart.n = s.n := rfl
@[simp] theorem State.adcStart_s1 : s.adcStart.s1 = s.s1 := rfl
@[simp] theorem State.adcStart_s2 : s.adcStart.s2 = s.s2 := rfl
@[simp] theorem State.adcStart_key : s.adcStart.key = s.key := rfl
@[simp] theorem State.adcStart_adcBusy : s.adcStart.adcBusy = true := rfl
@[simp] theorem State.adcStart_adcData : s.adcStart.adcData = s.adcData := rfl
@[simp] theorem State.adcStart_resp : s.adcStart.resp = s.resp := rfl
@[simp] theorem State.adcStart_respValid : s.adcStart.respValid = s.respValid := rfl
@[simp] theorem State.adcStart_adcStartOut : s.adcStart.adcStartOut = true := rfl
@[simp] theorem State.adcStart_cfg : s.adcStart.cfg = s.cfg := rfl
@[simp] theorem State.adcStart_inputs : s.adcStart.inputs = s.inputs := rfl
@[simp] theorem State.adcStart_draws : s.adcStart.draws = s.draws := rfl

/-! ### quiet -/

@[simp] theorem State.quiet_phaseA : s.quiet.phaseA = s.phaseA := rfl
@[simp] theorem State.quiet_phaseB : s.quiet.phaseB = s.phaseB := rfl
@[simp] theorem State.quiet_stepA : s.quiet.stepA = s.stepA := rfl
@[simp] theorem State.quiet_stepB : s.quiet.stepB = s.stepB := rfl
@[simp] theorem State.quiet_outEn : s.quiet.outEn = s.outEn := rfl
@[simp] theorem State.quiet_level : s.quiet.level = s.level := rfl
@[simp] theorem State.quiet_tickCnt : s.quiet.tickCnt = s.tickCnt := rfl
@[simp] theorem State.quiet_msFlag : s.quiet.msFlag = s.msFlag := rfl
@[simp] theorem State.quiet_lpArmed : s.quiet.lpArmed = s.lpArmed := rfl
@[simp] theorem State.quiet_lpCnt : s.quiet.lpCnt = s.lpCnt := rfl
@[simp] theorem State.quiet_lpFlag : s.quiet.lpFlag = s.lpFlag := rfl
@[simp] theorem State.quiet_tmask : s.quiet.tmask = s.tmask := rfl
@[simp] theorem State.quiet_tpend : s.quiet.tpend = s.tpend := rfl
@[simp] theorem State.quiet_seq : s.quiet.seq = s.seq := rfl
@[simp] theorem State.quiet_n : s.quiet.n = s.n := rfl
@[simp] theorem State.quiet_s1 : s.quiet.s1 = s.s1 := rfl
@[simp] theorem State.quiet_s2 : s.quiet.s2 = s.s2 := rfl
@[simp] theorem State.quiet_key : s.quiet.key = s.key := rfl
@[simp] theorem State.quiet_adcBusy : s.quiet.adcBusy = s.adcBusy := rfl
@[simp] theorem State.quiet_adcData : s.quiet.adcData = s.adcData := rfl
@[simp] theorem State.quiet_resp : s.quiet.resp = s.resp := rfl
@[simp] theorem State.quiet_respValid : s.quiet.respValid = s.respValid := rfl
@[simp] theorem State.quiet_adcStartOut : s.quiet.adcStartOut = false := rfl
@[simp] theorem State.quiet_cfg : s.quiet.cfg = s.cfg := rfl
@[simp] theorem State.quiet_inputs : s.quiet.inputs = s.inputs := rfl
@[simp] theorem State.quiet_draws : s.quiet.draws = s.draws := rfl

/-! ### raiseMs -/

@[simp] theorem State.raiseMs_phaseA : s.raiseMs.phaseA = s.phaseA := rfl
@[simp] theorem State.raiseMs_phaseB : s.raiseMs.phaseB = s.phaseB := rfl
@[simp] theorem State.raiseMs_stepA : s.raiseMs.stepA = s.stepA := rfl
@[simp] theorem State.raiseMs_stepB : s.raiseMs.stepB = s.stepB := rfl
@[simp] theorem State.raiseMs_outEn : s.raiseMs.outEn = s.outEn := rfl
@[simp] theorem State.raiseMs_level : s.raiseMs.level = s.level := rfl
@[simp] theorem State.raiseMs_tickCnt : s.raiseMs.tickCnt = s.tickCnt := rfl
@[simp] theorem State.raiseMs_msFlag : s.raiseMs.msFlag = true := rfl
@[simp] theorem State.raiseMs_lpArmed : s.raiseMs.lpArmed = s.lpArmed := rfl
@[simp] theorem State.raiseMs_lpCnt : s.raiseMs.lpCnt = s.lpCnt := rfl
@[simp] theorem State.raiseMs_lpFlag : s.raiseMs.lpFlag = s.lpFlag := rfl
@[simp] theorem State.raiseMs_tmask : s.raiseMs.tmask = s.tmask := rfl
@[simp] theorem State.raiseMs_tpend : s.raiseMs.tpend = s.tpend := rfl
@[simp] theorem State.raiseMs_seq : s.raiseMs.seq = s.seq := rfl
@[simp] theorem State.raiseMs_n : s.raiseMs.n = s.n := rfl
@[simp] theorem State.raiseMs_s1 : s.raiseMs.s1 = s.s1 := rfl
@[simp] theorem State.raiseMs_s2 : s.raiseMs.s2 = s.s2 := rfl
@[simp] theorem State.raiseMs_key : s.raiseMs.key = s.key := rfl
@[simp] theorem State.raiseMs_adcBusy : s.raiseMs.adcBusy = s.adcBusy := rfl
@[simp] theorem State.raiseMs_adcData : s.raiseMs.adcData = s.adcData := rfl
@[simp] theorem State.raiseMs_resp : s.raiseMs.resp = s.resp := rfl
@[simp] theorem State.raiseMs_respValid : s.raiseMs.respValid = s.respValid := rfl
@[simp] theorem State.raiseMs_adcStartOut : s.raiseMs.adcStartOut = s.adcStartOut := rfl
@[simp] theorem State.raiseMs_cfg : s.raiseMs.cfg = s.cfg := rfl
@[simp] theorem State.raiseMs_inputs : s.raiseMs.inputs = s.inputs := rfl
@[simp] theorem State.raiseMs_draws : s.raiseMs.draws = s.draws := rfl

/-! ### takeMs -/

@[simp] theorem State.takeMs_phaseA : s.takeMs.phaseA = s.phaseA := rfl
@[simp] theorem State.takeMs_phaseB : s.takeMs.phaseB = s.phaseB := rfl
@[simp] theorem State.takeMs_stepA : s.takeMs.stepA = s.stepA := rfl
@[simp] theorem State.takeMs_stepB : s.takeMs.stepB = s.stepB := rfl
@[simp] theorem State.takeMs_outEn : s.takeMs.outEn = s.outEn := rfl
@[simp] theorem State.takeMs_level : s.takeMs.level = s.level := rfl
@[simp] theorem State.takeMs_tickCnt : s.takeMs.tickCnt = s.tickCnt := rfl
@[simp] theorem State.takeMs_msFlag : s.takeMs.msFlag = false := rfl
@[simp] theorem State.takeMs_lpArmed : s.takeMs.lpArmed = s.lpArmed := rfl
@[simp] theorem State.takeMs_lpCnt : s.takeMs.lpCnt = s.lpCnt := rfl
@[simp] theorem State.takeMs_lpFlag : s.takeMs.lpFlag = s.lpFlag := rfl
@[simp] theorem State.takeMs_tmask : s.takeMs.tmask = s.tmask := rfl
@[simp] theorem State.takeMs_tpend : s.takeMs.tpend = s.tpend := rfl
@[simp] theorem State.takeMs_seq : s.takeMs.seq = s.seq := rfl
@[simp] theorem State.takeMs_n : s.takeMs.n = s.n := rfl
@[simp] theorem State.takeMs_s1 : s.takeMs.s1 = s.s1 := rfl
@[simp] theorem State.takeMs_s2 : s.takeMs.s2 = s.s2 := rfl
@[simp] theorem State.takeMs_key : s.takeMs.key = s.key := rfl
@[simp] theorem State.takeMs_adcBusy : s.takeMs.adcBusy = s.adcBusy := rfl
@[simp] theorem State.takeMs_adcData : s.takeMs.adcData = s.adcData := rfl
@[simp] theorem State.takeMs_resp : s.takeMs.resp = s.resp := rfl
@[simp] theorem State.takeMs_respValid : s.takeMs.respValid = s.respValid := rfl
@[simp] theorem State.takeMs_adcStartOut : s.takeMs.adcStartOut = s.adcStartOut := rfl
@[simp] theorem State.takeMs_cfg : s.takeMs.cfg = s.cfg := rfl
@[simp] theorem State.takeMs_inputs : s.takeMs.inputs = s.inputs := rfl
@[simp] theorem State.takeMs_draws : s.takeMs.draws = s.draws := rfl

/-! ### raiseLp -/

@[simp] theorem State.raiseLp_phaseA : s.raiseLp.phaseA = s.phaseA := rfl
@[simp] theorem State.raiseLp_phaseB : s.raiseLp.phaseB = s.phaseB := rfl
@[simp] theorem State.raiseLp_stepA : s.raiseLp.stepA = s.stepA := rfl
@[simp] theorem State.raiseLp_stepB : s.raiseLp.stepB = s.stepB := rfl
@[simp] theorem State.raiseLp_outEn : s.raiseLp.outEn = s.outEn := rfl
@[simp] theorem State.raiseLp_level : s.raiseLp.level = s.level := rfl
@[simp] theorem State.raiseLp_tickCnt : s.raiseLp.tickCnt = s.tickCnt := rfl
@[simp] theorem State.raiseLp_msFlag : s.raiseLp.msFlag = s.msFlag := rfl
@[simp] theorem State.raiseLp_lpArmed : s.raiseLp.lpArmed = s.lpArmed := rfl
@[simp] theorem State.raiseLp_lpCnt : s.raiseLp.lpCnt = s.lpCnt := rfl
@[simp] theorem State.raiseLp_lpFlag : s.raiseLp.lpFlag = true := rfl
@[simp] theorem State.raiseLp_tmask : s.raiseLp.tmask = s.tmask := rfl
@[simp] theorem State.raiseLp_tpend : s.raiseLp.tpend = s.tpend := rfl
@[simp] theorem State.raiseLp_seq : s.raiseLp.seq = s.seq := rfl
@[simp] theorem State.raiseLp_n : s.raiseLp.n = s.n := rfl
@[simp] theorem State.raiseLp_s1 : s.raiseLp.s1 = s.s1 := rfl
@[simp] theorem State.raiseLp_s2 : s.raiseLp.s2 = s.s2 := rfl
@[simp] theorem State.raiseLp_key : s.raiseLp.key = s.key := rfl
@[simp] theorem State.raiseLp_adcBusy : s.raiseLp.adcBusy = s.adcBusy := rfl
@[simp] theorem State.raiseLp_adcData : s.raiseLp.adcData = s.adcData := rfl
@[simp] theorem State.raiseLp_resp : s.raiseLp.resp = s.resp := rfl
@[simp] theorem State.raiseLp_respValid : s.raiseLp.respValid = s.respValid := rfl
@[simp] theorem State.raiseLp_adcStartOut : s.raiseLp.adcStartOut = s.adcStartOut := rfl
@[simp] theorem State.raiseLp_cfg : s.raiseLp.cfg = s.cfg := rfl
@[simp] theorem State.raiseLp_inputs : s.raiseLp.inputs = s.inputs := rfl
@[simp] theorem State.raiseLp_draws : s.raiseLp.draws = s.draws := rfl

/-! ### clearLp -/

@[simp] theorem State.clearLp_phaseA : s.clearLp.phaseA = s.phaseA := rfl
@[simp] theorem State.clearLp_phaseB : s.clearLp.phaseB = s.phaseB := rfl
@[simp] theorem State.clearLp_stepA : s.clearLp.stepA = s.stepA := rfl
@[simp] theorem State.clearLp_stepB : s.clearLp.stepB = s.stepB := rfl
@[simp] theorem State.clearLp_outEn : s.clearLp.outEn = s.outEn := rfl
@[simp] theorem State.clearLp_level : s.clearLp.level = s.level := rfl
@[simp] theorem State.clearLp_tickCnt : s.clearLp.tickCnt = s.tickCnt := rfl
@[simp] theorem State.clearLp_msFlag : s.clearLp.msFlag = s.msFlag := rfl
@[simp] theorem State.clearLp_lpArmed : s.clearLp.lpArmed = s.lpArmed := rfl
@[simp] theorem State.clearLp_lpCnt : s.clearLp.lpCnt = s.lpCnt := rfl
@[simp] theorem State.clearLp_lpFlag : s.clearLp.lpFlag = false := rfl
@[simp] theorem State.clearLp_tmask : s.clearLp.tmask = s.tmask := rfl
@[simp] theorem State.clearLp_tpend : s.clearLp.tpend = s.tpend := rfl
@[simp] theorem State.clearLp_seq : s.clearLp.seq = s.seq := rfl
@[simp] theorem State.clearLp_n : s.clearLp.n = s.n := rfl
@[simp] theorem State.clearLp_s1 : s.clearLp.s1 = s.s1 := rfl
@[simp] theorem State.clearLp_s2 : s.clearLp.s2 = s.s2 := rfl
@[simp] theorem State.clearLp_key : s.clearLp.key = s.key := rfl
@[simp] theorem State.clearLp_adcBusy : s.clearLp.adcBusy = s.adcBusy := rfl
@[simp] theorem State.clearLp_adcData : s.clearLp.adcData = s.adcData := rfl
@[simp] theorem State.clearLp_resp : s.clearLp.resp = s.resp := rfl
@[simp] theorem State.clearLp_respValid : s.clearLp.respValid = s.respValid := rfl
@[simp] theorem State.clearLp_adcStartOut : s.clearLp.adcStartOut = s.adcStartOut := rfl
@[simp] theorem State.clearLp_cfg : s.clearLp.cfg = s.cfg := rfl
@[simp] theorem State.clearLp_inputs : s.clearLp.inputs = s.inputs := rfl
@[simp] theorem State.clearLp_draws : s.clearLp.draws = s.draws := rfl

/-! ### countDown -/

@[simp] theorem State.countDown_phaseA : s.countDown.phaseA = s.phaseA := rfl
@[simp] theorem State.countDown_phaseB : s.countDown.phaseB = s.phaseB := rfl
@[simp] theorem State.countDown_stepA : s.countDown.stepA = s.stepA := rfl
@[simp] theorem State.countDown_stepB : s.countDown.stepB = s.stepB := rfl
@[simp] theorem State.countDown_outEn : s.countDown.outEn = s.outEn := rfl
@[simp] theorem State.countDown_level : s.countDown.level = s.level := rfl
@[simp] theorem State.countDown_tickCnt : s.countDown.tickCnt = s.tickCnt := rfl
@[simp] theorem State.countDown_msFlag : s.countDown.msFlag = false := rfl
@[simp] theorem State.countDown_lpArmed : s.countDown.lpArmed = s.lpArmed := rfl
@[simp] theorem State.countDown_lpCnt : s.countDown.lpCnt = s.lpCnt := rfl
@[simp] theorem State.countDown_lpFlag : s.countDown.lpFlag = s.lpFlag := rfl
@[simp] theorem State.countDown_tmask : s.countDown.tmask = s.tmask := rfl
@[simp] theorem State.countDown_tpend : s.countDown.tpend = s.tpend := rfl
@[simp] theorem State.countDown_seq : s.countDown.seq = s.seq := rfl
@[simp] theorem State.countDown_n : s.countDown.n = s.n - 1 := rfl
@[simp] theorem State.countDown_s1 : s.countDown.s1 = s.s1 := rfl
@[simp] theorem State.countDown_s2 : s.countDown.s2 = s.s2 := rfl
@[simp] theorem State.countDown_key : s.countDown.key = s.key := rfl
@[simp] theorem State.countDown_adcBusy : s.countDown.adcBusy = s.adcBusy := rfl
@[simp] theorem State.countDown_adcData : s.countDown.adcData = s.adcData := rfl
@[simp] theorem State.countDown_resp : s.countDown.resp = s.resp := rfl
@[simp] theorem State.countDown_respValid : s.countDown.respValid = s.respValid := rfl
@[simp] theorem State.countDown_adcStartOut : s.countDown.adcStartOut = s.adcStartOut := rfl
@[simp] theorem State.countDown_cfg : s.countDown.cfg = s.cfg := rfl
@[simp] theorem State.countDown_inputs : s.countDown.inputs = s.inputs := rfl
@[simp] theorem State.countDown_draws : s.countDown.draws = s.draws := rfl

/-! ### enableOutput -/

@[simp] theorem State.enableOutput_phaseA : s.enableOutput.phaseA = s.phaseA := rfl
@[simp] theorem State.enableOutput_phaseB : s.enableOutput.phaseB = s.phaseB := rfl
@[simp] theorem State.enableOutput_stepA : s.enableOutput.stepA = s.stepA := rfl
@[simp] theorem State.enableOutput_stepB : s.enableOutput.stepB = s.stepB := rfl
@[simp] theorem State.enableOutput_outEn : s.enableOutput.outEn = true := rfl
@[simp] theorem State.enableOutput_level : s.enableOutput.level = s.level := rfl
@[simp] theorem State.enableOutput_tickCnt : s.enableOutput.tickCnt = s.tickCnt := rfl
@[simp] theorem State.enableOutput_msFlag : s.enableOutput.msFlag = s.msFlag := rfl
@[simp] theorem State.enableOutput_lpArmed : s.enableOutput.lpArmed = s.lpArmed := rfl
@[simp] theorem State.enableOutput_lpCnt : s.enableOutput.lpCnt = s.lpCnt := rfl
@[simp] theorem State.enableOutput_lpFlag : s.enableOutput.lpFlag = s.lpFlag := rfl
@[simp] theorem State.enableOutput_tmask : s.enableOutput.tmask = s.tmask := rfl
@[simp] theorem State.enableOutput_tpend : s.enableOutput.tpend = s.tpend := rfl
@[simp] theorem State.enableOutput_seq : s.enableOutput.seq = s.seq := rfl
@[simp] theorem State.enableOutput_n : s.enableOutput.n = s.n := rfl
@[simp] theorem State.enableOutput_s1 : s.enableOutput.s1 = s.s1 := rfl
@[simp] theorem State.enableOutput_s2 : s.enableOutput.s2 = s.s2 := rfl
@[simp] theorem State.enableOutput_key : s.enableOutput.key = s.key := rfl
@[simp] theorem State.enableOutput_adcBusy : s.enableOutput.adcBusy = s.adcBusy := rfl
@[simp] theorem State.enableOutput_adcData : s.enableOutput.adcData = s.adcData := rfl
@[simp] theorem State.enableOutput_resp : s.enableOutput.resp = s.resp := rfl
@[simp] theorem State.enableOutput_respValid : s.enableOutput.respValid = s.respValid := rfl
@[simp] theorem State.enableOutput_adcStartOut : s.enableOutput.adcStartOut = s.adcStartOut := rfl
@[simp] theorem State.enableOutput_cfg : s.enableOutput.cfg = s.cfg := rfl
@[simp] theorem State.enableOutput_inputs : s.enableOutput.inputs = s.inputs := rfl
@[simp] theorem State.enableOutput_draws : s.enableOutput.draws = s.draws := rfl

/-! ### disableOutput -/

@[simp] theorem State.disableOutput_phaseA : s.disableOutput.phaseA = s.phaseA := rfl
@[simp] theorem State.disableOutput_phaseB : s.disableOutput.phaseB = s.phaseB := rfl
@[simp] theorem State.disableOutput_stepA : s.disableOutput.stepA = s.stepA := rfl
@[simp] theorem State.disableOutput_stepB : s.disableOutput.stepB = s.stepB := rfl
@[simp] theorem State.disableOutput_outEn : s.disableOutput.outEn = false := rfl
@[simp] theorem State.disableOutput_level : s.disableOutput.level = s.level := rfl
@[simp] theorem State.disableOutput_tickCnt : s.disableOutput.tickCnt = s.tickCnt := rfl
@[simp] theorem State.disableOutput_msFlag : s.disableOutput.msFlag = s.msFlag := rfl
@[simp] theorem State.disableOutput_lpArmed : s.disableOutput.lpArmed = s.lpArmed := rfl
@[simp] theorem State.disableOutput_lpCnt : s.disableOutput.lpCnt = s.lpCnt := rfl
@[simp] theorem State.disableOutput_lpFlag : s.disableOutput.lpFlag = s.lpFlag := rfl
@[simp] theorem State.disableOutput_tmask : s.disableOutput.tmask = s.tmask := rfl
@[simp] theorem State.disableOutput_tpend : s.disableOutput.tpend = s.tpend := rfl
@[simp] theorem State.disableOutput_seq : s.disableOutput.seq = s.seq := rfl
@[simp] theorem State.disableOutput_n : s.disableOutput.n = s.n := rfl
@[simp] theorem State.disableOutput_s1 : s.disableOutput.s1 = s.s1 := rfl
@[simp] theorem State.disableOutput_s2 : s.disableOutput.s2 = s.s2 := rfl
@[simp] theorem State.disableOutput_key : s.disableOutput.key = s.key := rfl
@[simp] theorem State.disableOutput_adcBusy : s.disableOutput.adcBusy = s.adcBusy := rfl
@[simp] theorem State.disableOutput_adcData : s.disableOutput.adcData = s.adcData := rfl
@[simp] theorem State.disableOutput_resp : s.disableOutput.resp = s.resp := rfl
@[simp] theorem State.disableOutput_respValid : s.disableOutput.respValid = s.respValid := rfl
@[simp] theorem State.disableOutput_adcStartOut : s.disableOutput.adcStartOut = s.adcStartOut := rfl
@[simp] theorem State.disableOutput_cfg : s.disableOutput.cfg = s.cfg := rfl
@[simp] theorem State.disableOutput_inputs : s.disableOutput.inputs = s.inputs := rfl
@[simp] theorem State.disableOutput_draws : s.disableOutput.draws = s.draws := rfl

/-! ### playComplete -/

@[simp] theorem State.playComplete_phaseA : s.playComplete.phaseA = s.phaseA := rfl
@[simp] theorem State.playComplete_phaseB : s.playComplete.phaseB = s.phaseB := rfl
@[simp] theorem State.playComplete_stepA : s.playComplete.stepA = s.stepA := rfl
@[simp] theorem State.playComplete_stepB : s.playComplete.stepB = s.stepB := rfl
@[simp] theorem State.playComplete_outEn : s.playComplete.outEn = false := rfl
@[simp] theorem State.playComplete_level : s.playComplete.level = s.level := rfl
@[simp] theorem State.playComplete_tickCnt : s.playComplete.tickCnt = s.tickCnt := rfl
@[simp] theorem State.playComplete_msFlag : s.playComplete.msFlag = s.msFlag := rfl
@[simp] theorem State.playComplete_lpArmed : s.playComplete.lpArmed = s.lpArmed := rfl
@[simp] theorem State.playComplete_lpCnt : s.playComplete.lpCnt = s.lpCnt := rfl
@[simp] theorem State.playComplete_lpFlag : s.playComplete.lpFlag = s.lpFlag := rfl
@[simp] theorem State.playComplete_tmask : s.playComplete.tmask = s.tmask := rfl
@[simp] theorem State.playComplete_tpend : s.playComplete.tpend = s.tpend := rfl
@[simp] theorem State.playComplete_seq : s.playComplete.seq = .idle := rfl
@[simp] theorem State.playComplete_n : s.playComplete.n = s.n := rfl
@[simp] theorem State.playComplete_s1 : s.playComplete.s1 = s.s1 := rfl
@[simp] theorem State.playComplete_s2 : s.playComplete.s2 = s.s2 := rfl
@[simp] theorem State.playComplete_key : s.playComplete.key = s.key := rfl
@[simp] theorem State.playComplete_adcBusy : s.playComplete.adcBusy = s.adcBusy := rfl
@[simp] theorem State.playComplete_adcData : s.playComplete.adcData = s.adcData := rfl
@[simp] theorem State.playComplete_resp : s.playComplete.resp = respWord .ok 0 := rfl
@[simp] theorem State.playComplete_respValid : s.playComplete.respValid = true := rfl
@[simp] theorem State.playComplete_adcStartOut : s.playComplete.adcStartOut = s.adcStartOut := rfl
@[simp] theorem State.playComplete_cfg : s.playComplete.cfg = s.cfg := rfl
@[simp] theorem State.playComplete_inputs : s.playComplete.inputs = s.inputs := rfl
@[simp] theorem State.playComplete_draws : s.playComplete.draws = s.draws := rfl

/-! ### loadTone -/

@[simp] theorem State.loadTone_phaseA (d : Half) (a b : Nat) : (s.loadTone d a b).phaseA = 0 := rfl
@[simp] theorem State.loadTone_phaseB (d : Half) (a b : Nat) : (s.loadTone d a b).phaseB = 0 := rfl
@[simp] theorem State.loadTone_stepA (d : Half) (a b : Nat) : (s.loadTone d a b).stepA = a := rfl
@[simp] theorem State.loadTone_stepB (d : Half) (a b : Nat) : (s.loadTone d a b).stepB = b := rfl
@[simp] theorem State.loadTone_outEn (d : Half) (a b : Nat) : (s.loadTone d a b).outEn = s.outEn := rfl
@[simp] theorem State.loadTone_level (d : Half) (a b : Nat) : (s.loadTone d a b).level = s.level := rfl
@[simp] theorem State.loadTone_tickCnt (d : Half) (a b : Nat) : (s.loadTone d a b).tickCnt = s.tickCnt := rfl
@[simp] theorem State.loadTone_msFlag (d : Half) (a b : Nat) : (s.loadTone d a b).msFlag = s.msFlag := rfl
@[simp] theorem State.loadTone_lpArmed (d : Half) (a b : Nat) : (s.loadTone d a b).lpArmed = s.lpArmed := rfl
@[simp] theorem State.loadTone_lpCnt (d : Half) (a b : Nat) : (s.loadTone d a b).lpCnt = s.lpCnt := rfl
@[simp] theorem State.loadTone_lpFlag (d : Half) (a b : Nat) : (s.loadTone d a b).lpFlag = s.lpFlag := rfl
@[simp] theorem State.loadTone_tmask (d : Half) (a b : Nat) : (s.loadTone d a b).tmask = s.tmask := rfl
@[simp] theorem State.loadTone_tpend (d : Half) (a b : Nat) : (s.loadTone d a b).tpend = s.tpend := rfl
@[simp] theorem State.loadTone_seq (d : Half) (a b : Nat) : (s.loadTone d a b).seq = s.seq := rfl
@[simp] theorem State.loadTone_n (d : Half) (a b : Nat) : (s.loadTone d a b).n = d := rfl
@[simp] theorem State.loadTone_s1 (d : Half) (a b : Nat) : (s.loadTone d a b).s1 = s.s1 := rfl
@[simp] theorem State.loadTone_s2 (d : Half) (a b : Nat) : (s.loadTone d a b).s2 = s.s2 := rfl
@[simp] theorem State.loadTone_key (d : Half) (a b : Nat) : (s.loadTone d a b).key = s.key := rfl
@[simp] theorem State.loadTone_adcBusy (d : Half) (a b : Nat) : (s.loadTone d a b).adcBusy = s.adcBusy := rfl
@[simp] theorem State.loadTone_adcData (d : Half) (a b : Nat) : (s.loadTone d a b).adcData = s.adcData := rfl
@[simp] theorem State.loadTone_resp (d : Half) (a b : Nat) : (s.loadTone d a b).resp = s.resp := rfl
@[simp] theorem State.loadTone_respValid (d : Half) (a b : Nat) : (s.loadTone d a b).respValid = s.respValid := rfl
@[simp] theorem State.loadTone_adcStartOut (d : Half) (a b : Nat) : (s.loadTone d a b).adcStartOut = s.adcStartOut := rfl
@[simp] theorem State.loadTone_cfg (d : Half) (a b : Nat) : (s.loadTone d a b).cfg = s.cfg := rfl
@[simp] theorem State.loadTone_inputs (d : Half) (a b : Nat) : (s.loadTone d a b).inputs = s.inputs := rfl
@[simp] theorem State.loadTone_draws (d : Half) (a b : Nat) : (s.loadTone d a b).draws = s.draws := rfl

/-! ### restartLp -/

@[simp] theorem State.restartLp_phaseA : s.restartLp.phaseA = s.phaseA := rfl
@[simp] theorem State.restartLp_phaseB : s.restartLp.phaseB = s.phaseB := rfl
@[simp] theorem State.restartLp_stepA : s.restartLp.stepA = s.stepA := rfl
@[simp] theorem State.restartLp_stepB : s.restartLp.stepB = s.stepB := rfl
@[simp] theorem State.restartLp_outEn : s.restartLp.outEn = s.outEn := rfl
@[simp] theorem State.restartLp_level : s.restartLp.level = s.level := rfl
@[simp] theorem State.restartLp_tickCnt : s.restartLp.tickCnt = s.tickCnt := rfl
@[simp] theorem State.restartLp_msFlag : s.restartLp.msFlag = s.msFlag := rfl
@[simp] theorem State.restartLp_lpArmed : s.restartLp.lpArmed = s.lpArmed := rfl
@[simp] theorem State.restartLp_lpCnt : s.restartLp.lpCnt = s.cfg.longpressTime := rfl
@[simp] theorem State.restartLp_lpFlag : s.restartLp.lpFlag = false := rfl
@[simp] theorem State.restartLp_tmask : s.restartLp.tmask = s.tmask := rfl
@[simp] theorem State.restartLp_tpend : s.restartLp.tpend = s.tpend := rfl
@[simp] theorem State.restartLp_seq : s.restartLp.seq = s.seq := rfl
@[simp] theorem State.restartLp_n : s.restartLp.n = s.n := rfl
@[simp] theorem State.restartLp_s1 : s.restartLp.s1 = s.s1 := rfl
@[simp] theorem State.restartLp_s2 : s.restartLp.s2 = s.s2 := rfl
@[simp] theorem State.restartLp_key : s.restartLp.key = s.key := rfl
@[simp] theorem State.restartLp_adcBusy : s.restartLp.adcBusy = s.adcBusy := rfl
@[simp] theorem State.restartLp_adcData : s.restartLp.adcData = s.adcData := rfl
@[simp] theorem State.restartLp_resp : s.restartLp.resp = s.resp := rfl
@[simp] theorem State.restartLp_respValid : s.restartLp.respValid = s.respValid := rfl
@[simp] theorem State.restartLp_adcStartOut : s.restartLp.adcStartOut = s.adcStartOut := rfl
@[simp] theorem State.restartLp_cfg : s.restartLp.cfg = s.cfg := rfl
@[simp] theorem State.restartLp_inputs : s.restartLp.inputs = s.inputs := rfl
@[simp] theorem State.restartLp_draws : s.restartLp.draws = s.draws := rfl

/-! ### firstConversion -/

@[simp] theorem State.firstConversion_phaseA : s.firstConversion.phaseA = s.phaseA := rfl
@[simp] theorem State.firstConversion_phaseB : s.firstConversion.phaseB = s.phaseB := rfl
@[simp] theorem State.firstConversion_stepA : s.firstConversion.stepA = s.stepA := rfl
@[simp] theorem State.firstConversion_stepB : s.firstConversion.stepB = s.stepB := rfl
@[simp] theorem State.firstConversion_outEn : s.firstConversion.outEn = s.outEn := rfl
@[simp] theorem State.firstConversion_level : s.firstConversion.level = s.level := rfl
@[simp] theorem State.firstConversion_tickCnt : s.firstConversion.tickCnt = s.tickCnt := rfl
@[simp] theorem State.firstConversion_msFlag : s.firstConversion.msFlag = s.msFlag := rfl
@[simp] theorem State.firstConversion_lpArmed : s.firstConversion.lpArmed = s.lpArmed := rfl
@[simp] theorem State.firstConversion_lpCnt : s.firstConversion.lpCnt = s.lpCnt := rfl
@[simp] theorem State.firstConversion_lpFlag : s.firstConversion.lpFlag = s.lpFlag := rfl
@[simp] theorem State.firstConversion_tmask : s.firstConversion.tmask = s.tmask := rfl
@[simp] theorem State.firstConversion_tpend : s.firstConversion.tpend = s.tpend := rfl
@[simp] theorem State.firstConversion_seq : s.firstConversion.seq = .gkConv1 := rfl
@[simp] theorem State.firstConversion_n : s.firstConversion.n = s.n := rfl
@[simp] theorem State.firstConversion_s1 : s.firstConversion.s1 = s.s1 := rfl
@[simp] theorem State.firstConversion_s2 : s.firstConversion.s2 = s.s2 := rfl
@[simp] theorem State.firstConversion_key : s.firstConversion.key = s.key := rfl
@[simp] theorem State.firstConversion_adcBusy : s.firstConversion.adcBusy = true := rfl
@[simp] theorem State.firstConversion_adcData : s.firstConversion.adcData = s.adcData := rfl
@[simp] theorem State.firstConversion_resp : s.firstConversion.resp = s.resp := rfl
@[simp] theorem State.firstConversion_respValid : s.firstConversion.respValid = s.respValid := rfl
@[simp] theorem State.firstConversion_adcStartOut : s.firstConversion.adcStartOut = true := rfl
@[simp] theorem State.firstConversion_cfg : s.firstConversion.cfg = s.cfg := rfl
@[simp] theorem State.firstConversion_inputs : s.firstConversion.inputs = s.inputs := rfl
@[simp] theorem State.firstConversion_draws : s.firstConversion.draws = s.draws := rfl

/-! ### secondConversion -/

@[simp] theorem State.secondConversion_phaseA : s.secondConversion.phaseA = s.phaseA := rfl
@[simp] theorem State.secondConversion_phaseB : s.secondConversion.phaseB = s.phaseB := rfl
@[simp] theorem State.secondConversion_stepA : s.secondConversion.stepA = s.stepA := rfl
@[simp] theorem State.secondConversion_stepB : s.secondConversion.stepB = s.stepB := rfl
@[simp] theorem State.secondConversion_outEn : s.secondConversion.outEn = s.outEn := rfl
@[simp] theorem State.secondConversion_level : s.secondConversion.level = s.level := rfl
@[simp] theorem State.secondConversion_tickCnt : s.secondConversion.tickCnt = s.tickCnt := rfl
@[simp] theorem State.secondConversion_msFlag : s.secondConversion.msFlag = s.msFlag := rfl
@[simp] theorem State.secondConversion_lpArmed : s.secondConversion.lpArmed = s.lpArmed := rfl
@[simp] theorem State.secondConversion_lpCnt : s.secondConversion.lpCnt = s.lpCnt := rfl
@[simp] theorem State.secondConversion_lpFlag : s.secondConversion.lpFlag = s.lpFlag := rfl
@[simp] theorem State.secondConversion_tmask : s.secondConversion.tmask = s.tmask := rfl
@[simp] theorem State.secondConversion_tpend : s.secondConversion.tpend = s.tpend := rfl
@[simp] theorem State.secondConversion_seq : s.secondConversion.seq = .gkConv2 := rfl
@[simp] theorem State.secondConversion_n : s.secondConversion.n = s.n := rfl
@[simp] theorem State.secondConversion_s1 : s.secondConversion.s1 = s.adcData := rfl
@[simp] theorem State.secondConversion_s2 : s.secondConversion.s2 = s.s2 := rfl
@[simp] theorem State.secondConversion_key : s.secondConversion.key = s.key := rfl
@[simp] theorem State.secondConversion_adcBusy : s.secondConversion.adcBusy = true := rfl
@[simp] theorem State.secondConversion_adcData : s.secondConversion.adcData = s.adcData := rfl
@[simp] theorem State.secondConversion_resp : s.secondConversion.resp = s.resp := rfl
@[simp] theorem State.secondConversion_respValid : s.secondConversion.respValid = s.respValid := rfl
@[simp] theorem State.secondConversion_adcStartOut : s.secondConversion.adcStartOut = true := rfl
@[simp] theorem State.secondConversion_cfg : s.secondConversion.cfg = s.cfg := rfl
@[simp] theorem State.secondConversion_inputs : s.secondConversion.inputs = s.inputs := rfl
@[simp] theorem State.secondConversion_draws : s.secondConversion.draws = s.draws := rfl

/-! ### adcDone: the fields it never writes -/

@[simp] theorem State.adcDone_phaseA (v : Byte) : (s.adcDone v).phaseA = s.phaseA := by unfold State.adcDone; split <;> rfl
@[simp] theorem State.adcDone_phaseB (v : Byte) : (s.adcDone v).phaseB = s.phaseB := by unfold State.adcDone; split <;> rfl
@[simp] theorem State.adcDone_stepA (v : Byte) : (s.adcDone v).stepA = s.stepA := by unfold State.adcDone; split <;> rfl
@[simp] theorem State.adcDone_stepB (v : Byte) : (s.adcDone v).stepB = s.stepB := by unfold State.adcDone; split <;> rfl
@[simp] theorem State.adcDone_outEn (v : Byte) : (s.adcDone v).outEn = s.outEn := by unfold State.adcDone; split <;> rfl
@[simp] theorem State.adcDone_level (v : Byte) : (s.adcDone v).level = s.level := by unfold State.adcDone; split <;> rfl
@[simp] theorem State.adcDone_tickCnt (v : Byte) : (s.adcDone v).tickCnt = s.tickCnt := by unfold State.adcDone; split <;> rfl
@[simp] theorem State.adcDone_msFlag (v : Byte) : (s.adcDone v).msFlag = s.msFlag := by unfold State.adcDone; split <;> rfl
@[simp] theorem State.adcDone_lpArmed (v : Byte) : (s.adcDone v).lpArmed = s.lpArmed := by unfold State.adcDone; split <;> rfl
@[simp] theorem State.adcDone_lpCnt (v : Byte) : (s.adcDone v).lpCnt = s.lpCnt := by unfold State.adcDone; split <;> rfl
@[simp] theorem State.adcDone_lpFlag (v : Byte) : (s.adcDone v).lpFlag = s.lpFlag := by unfold State.adcDone; split <;> rfl
@[simp] theorem State.adcDone_tmask (v : Byte) : (s.adcDone v).tmask = s.tmask := by unfold State.adcDone; split <;> rfl
@[simp] theorem State.adcDone_tpend (v : Byte) : (s.adcDone v).tpend = s.tpend := by unfold State.adcDone; split <;> rfl
@[simp] theorem State.adcDone_seq (v : Byte) : (s.adcDone v).seq = s.seq := by unfold State.adcDone; split <;> rfl
@[simp] theorem State.adcDone_n (v : Byte) : (s.adcDone v).n = s.n := by unfold State.adcDone; split <;> rfl
@[simp] theorem State.adcDone_s1 (v : Byte) : (s.adcDone v).s1 = s.s1 := by unfold State.adcDone; split <;> rfl
@[simp] theorem State.adcDone_s2 (v : Byte) : (s.adcDone v).s2 = s.s2 := by unfold State.adcDone; split <;> rfl
@[simp] theorem State.adcDone_key (v : Byte) : (s.adcDone v).key = s.key := by unfold State.adcDone; split <;> rfl
@[simp] theorem State.adcDone_resp (v : Byte) : (s.adcDone v).resp = s.resp := by unfold State.adcDone; split <;> rfl
@[simp] theorem State.adcDone_respValid (v : Byte) : (s.adcDone v).respValid = s.respValid := by unfold State.adcDone; split <;> rfl
@[simp] theorem State.adcDone_adcStartOut (v : Byte) : (s.adcDone v).adcStartOut = s.adcStartOut := by unfold State.adcDone; split <;> rfl
@[simp] theorem State.adcDone_cfg (v : Byte) : (s.adcDone v).cfg = s.cfg := by unfold State.adcDone; split <;> rfl
@[simp] theorem State.adcDone_inputs (v : Byte) : (s.adcDone v).inputs = s.inputs := by unfold State.adcDone; split <;> rfl
@[simp] theorem State.adcDone_draws (v : Byte) : (s.adcDone v).draws = s.draws := by unfold State.adcDone; split <;> rfl

/-! ### oscPart: the fields it never writes -/

@[simp] theorem State.oscPart_stepA : s.oscPart.stepA = s.stepA := by unfold State.oscPart; split <;> rfl
@[simp] theorem State.oscPart_stepB : s.oscPart.stepB = s.stepB := by unfold State.oscPart; split <;> rfl
@[simp] theorem State.oscPart_outEn : s.oscPart.outEn = s.outEn := by unfold State.oscPart; split <;> rfl
@[simp] theorem State.oscPart_tickCnt : s.oscPart.tickCnt = s.tickCnt := by unfold State.oscPart; split <;> rfl
@[simp] theorem State.oscPart_msFlag : s.oscPart.msFlag = s.msFlag := by unfold State.oscPart; split <;> rfl
@[simp] theorem State.oscPart_lpArmed : s.oscPart.lpArmed = s.lpArmed := by unfold State.oscPart; split <;> rfl
@[simp] theorem State.oscPart_lpCnt : s.oscPart.lpCnt = s.lpCnt := by unfold State.oscPart; split <;> rfl
@[simp] theorem State.oscPart_lpFlag : s.oscPart.lpFlag = s.lpFlag := by unfold State.oscPart; split <;> rfl
@[simp] theorem State.oscPart_tmask : s.oscPart.tmask = s.tmask := by unfold State.oscPart; split <;> rfl
@[simp] theorem State.oscPart_tpend : s.oscPart.tpend = s.tpend := by unfold State.oscPart; split <;> rfl
@[simp] theorem State.oscPart_seq : s.oscPart.seq = s.seq := by unfold State.oscPart; split <;> rfl
@[simp] theorem State.oscPart_n : s.oscPart.n = s.n := by unfold State.oscPart; split <;> rfl
@[simp] theorem State.oscPart_s1 : s.oscPart.s1 = s.s1 := by unfold State.oscPart; split <;> rfl
@[simp] theorem State.oscPart_s2 : s.oscPart.s2 = s.s2 := by unfold State.oscPart; split <;> rfl
@[simp] theorem State.oscPart_key : s.oscPart.key = s.key := by unfold State.oscPart; split <;> rfl
@[simp] theorem State.oscPart_adcBusy : s.oscPart.adcBusy = s.adcBusy := by unfold State.oscPart; split <;> rfl
@[simp] theorem State.oscPart_adcData : s.oscPart.adcData = s.adcData := by unfold State.oscPart; split <;> rfl
@[simp] theorem State.oscPart_resp : s.oscPart.resp = s.resp := by unfold State.oscPart; split <;> rfl
@[simp] theorem State.oscPart_respValid : s.oscPart.respValid = s.respValid := by unfold State.oscPart; split <;> rfl
@[simp] theorem State.oscPart_adcStartOut : s.oscPart.adcStartOut = s.adcStartOut := by unfold State.oscPart; split <;> rfl
@[simp] theorem State.oscPart_cfg : s.oscPart.cfg = s.cfg := by unfold State.oscPart; split <;> rfl
@[simp] theorem State.oscPart_inputs : s.oscPart.inputs = s.inputs := by unfold State.oscPart; split <;> rfl
@[simp] theorem State.oscPart_draws : s.oscPart.draws = s.draws := by unfold State.oscPart; split <;> rfl

/-! ### lpPart: the fields it never writes -/

@[simp] theorem State.lpPart_phaseA : s.lpPart.phaseA = s.phaseA := by unfold State.lpPart; split <;> [(split <;> rfl); rfl]
@[simp] theorem State.lpPart_phaseB : s.lpPart.phaseB = s.phaseB := by unfold State.lpPart; split <;> [(split <;> rfl); rfl]
@[simp] theorem State.lpPart_stepA : s.lpPart.stepA = s.stepA := by unfold State.lpPart; split <;> [(split <;> rfl); rfl]
@[simp] theorem State.lpPart_stepB : s.lpPart.stepB = s.stepB := by unfold State.lpPart; split <;> [(split <;> rfl); rfl]
@[simp] theorem State.lpPart_outEn : s.lpPart.outEn = s.outEn := by unfold State.lpPart; split <;> [(split <;> rfl); rfl]
@[simp] theorem State.lpPart_level : s.lpPart.level = s.level := by unfold State.lpPart; split <;> [(split <;> rfl); rfl]
@[simp] theorem State.lpPart_tickCnt : s.lpPart.tickCnt = s.tickCnt := by unfold State.lpPart; split <;> [(split <;> rfl); rfl]
@[simp] theorem State.lpPart_msFlag : s.lpPart.msFlag = s.msFlag := by unfold State.lpPart; split <;> [(split <;> rfl); rfl]
@[simp] theorem State.lpPart_lpArmed : s.lpPart.lpArmed = s.lpArmed := by unfold State.lpPart; split <;> [(split <;> rfl); rfl]
@[simp] theorem State.lpPart_tmask : s.lpPart.tmask = s.tmask := by unfold State.lpPart; split <;> [(split <;> rfl); rfl]
@[simp] theorem State.lpPart_tpend : s.lpPart.tpend = s.tpend := by unfold State.lpPart; split <;> [(split <;> rfl); rfl]
@[simp] theorem State.lpPart_seq : s.lpPart.seq = s.seq := by unfold State.lpPart; split <;> [(split <;> rfl); rfl]
@[simp] theorem State.lpPart_n : s.lpPart.n = s.n := by unfold State.lpPart; split <;> [(split <;> rfl); rfl]
@[simp] theorem State.lpPart_s1 : s.lpPart.s1 = s.s1 := by unfold State.lpPart; split <;> [(split <;> rfl); rfl]
@[simp] theorem State.lpPart_s2 : s.lpPart.s2 = s.s2 := by unfold State.lpPart; split <;> [(split <;> rfl); rfl]
@[simp] theorem State.lpPart_key : s.lpPart.key = s.key := by unfold State.lpPart; split <;> [(split <;> rfl); rfl]
@[simp] theorem State.lpPart_adcBusy : s.lpPart.adcBusy = s.adcBusy := by unfold State.lpPart; split <;> [(split <;> rfl); rfl]
@[simp] theorem State.lpPart_adcData : s.lpPart.adcData = s.adcData := by unfold State.lpPart; split <;> [(split <;> rfl); rfl]
@[simp] theorem State.lpPart_resp : s.lpPart.resp = s.resp := by unfold State.lpPart; split <;> [(split <;> rfl); rfl]
@[simp] theorem State.lpPart_respValid : s.lpPart.respValid = s.respValid := by unfold State.lpPart; split <;> [(split <;> rfl); rfl]
@[simp] theorem State.lpPart_adcStartOut : s.lpPart.adcStartOut = s.adcStartOut := by unfold State.lpPart; split <;> [(split <;> rfl); rfl]
@[simp] theorem State.lpPart_cfg : s.lpPart.cfg = s.cfg := by unfold State.lpPart; split <;> [(split <;> rfl); rfl]
@[simp] theorem State.lpPart_inputs : s.lpPart.inputs = s.inputs := by unfold State.lpPart; split <;> [(split <;> rfl); rfl]
@[simp] theorem State.lpPart_draws : s.lpPart.draws = s.draws := by unfold State.lpPart; split <;> [(split <;> rfl); rfl]

/-! ### clockPart: the fields it never writes -/

@[simp] theorem State.clockPart_phaseA : s.clockPart.phaseA = s.phaseA := by unfold State.clockPart; split <;> simp
@[simp] theorem State.clockPart_phaseB : s.clockPart.phaseB = s.phaseB := by unfold State.clockPart; split <;> simp
@[simp] theorem State.clockPart_stepA : s.clockPart.stepA = s.stepA := by unfold State.clockPart; split <;> simp
@[simp] theorem State.clockPart_stepB : s.clockPart.stepB = s.stepB := by unfold State.clockPart; split <;> simp
@[simp] theorem State.clockPart_outEn : s.clockPart.outEn = s.outEn := by unfold State.clockPart; split <;> simp
@[simp] theorem State.clockPart_level : s.clockPart.level = s.level := by unfold State.clockPart; split <;> simp
@[simp] theorem State.clockPart_lpArmed : s.clockPart.lpArmed = s.lpArmed := by unfold State.clockPart; split <;> simp
@[simp] theorem State.clockPart_tmask : s.clockPart.tmask = s.tmask := by unfold State.clockPart; split <;> simp
@[simp] theorem State.clockPart_tpend : s.clockPart.tpend = s.tpend := by unfold State.clockPart; split <;> simp
@[simp] theorem State.clockPart_seq : s.clockPart.seq = s.seq := by unfold State.clockPart; split <;> simp
@[simp] theorem State.clockPart_n : s.clockPart.n = s.n := by unfold State.clockPart; split <;> simp
@[simp] theorem State.clockPart_s1 : s.clockPart.s1 = s.s1 := by unfold State.clockPart; split <;> simp
@[simp] theorem State.clockPart_s2 : s.clockPart.s2 = s.s2 := by unfold State.clockPart; split <;> simp
@[simp] theorem State.clockPart_key : s.clockPart.key = s.key := by unfold State.clockPart; split <;> simp
@[simp] theorem State.clockPart_adcBusy : s.clockPart.adcBusy = s.adcBusy := by unfold State.clockPart; split <;> simp
@[simp] theorem State.clockPart_adcData : s.clockPart.adcData = s.adcData := by unfold State.clockPart; split <;> simp
@[simp] theorem State.clockPart_resp : s.clockPart.resp = s.resp := by unfold State.clockPart; split <;> simp
@[simp] theorem State.clockPart_respValid : s.clockPart.respValid = s.respValid := by unfold State.clockPart; split <;> simp
@[simp] theorem State.clockPart_adcStartOut : s.clockPart.adcStartOut = s.adcStartOut := by unfold State.clockPart; split <;> simp
@[simp] theorem State.clockPart_cfg : s.clockPart.cfg = s.cfg := by unfold State.clockPart; split <;> simp
@[simp] theorem State.clockPart_inputs : s.clockPart.inputs = s.inputs := by unfold State.clockPart; split <;> simp
@[simp] theorem State.clockPart_draws : s.clockPart.draws = s.draws := by unfold State.clockPart; split <;> simp

/-! ### tickStep: the fields it never writes -/

@[simp] theorem State.tickStep_stepA : s.tickStep.stepA = s.stepA := by simp [State.tickStep]
@[simp] theorem State.tickStep_stepB : s.tickStep.stepB = s.stepB := by simp [State.tickStep]
@[simp] theorem State.tickStep_outEn : s.tickStep.outEn = s.outEn := by simp [State.tickStep]
@[simp] theorem State.tickStep_lpArmed : s.tickStep.lpArmed = s.lpArmed := by simp [State.tickStep]
@[simp] theorem State.tickStep_tmask : s.tickStep.tmask = s.tmask := by simp [State.tickStep]
@[simp] theorem State.tickStep_tpend : s.tickStep.tpend = s.tpend := by simp [State.tickStep]
@[simp] theorem State.tickStep_seq : s.tickStep.seq = s.seq := by simp [State.tickStep]
@[simp] theorem State.tickStep_n : s.tickStep.n = s.n := by simp [State.tickStep]
@[simp] theorem State.tickStep_s1 : s.tickStep.s1 = s.s1 := by simp [State.tickStep]
@[simp] theorem State.tickStep_s2 : s.tickStep.s2 = s.s2 := by simp [State.tickStep]
@[simp] theorem State.tickStep_key : s.tickStep.key = s.key := by simp [State.tickStep]
@[simp] theorem State.tickStep_adcBusy : s.tickStep.adcBusy = s.adcBusy := by simp [State.tickStep]
@[simp] theorem State.tickStep_adcData : s.tickStep.adcData = s.adcData := by simp [State.tickStep]
@[simp] theorem State.tickStep_resp : s.tickStep.resp = s.resp := by simp [State.tickStep]
@[simp] theorem State.tickStep_respValid : s.tickStep.respValid = s.respValid := by simp [State.tickStep]
@[simp] theorem State.tickStep_adcStartOut : s.tickStep.adcStartOut = s.adcStartOut := by simp [State.tickStep]
@[simp] theorem State.tickStep_cfg : s.tickStep.cfg = s.cfg := by simp [State.tickStep]
@[simp] theorem State.tickStep_inputs : s.tickStep.inputs = s.inputs := by simp [State.tickStep]
@[simp] theorem State.tickStep_draws : s.tickStep.draws = s.draws := by simp [State.tickStep]

/-! ### tickEvent: the fields it never writes -/

@[simp] theorem State.tickEvent_stepA : s.tickEvent.stepA = s.stepA := by unfold State.tickEvent; split <;> simp
@[simp] theorem State.tickEvent_stepB : s.tickEvent.stepB = s.stepB := by unfold State.tickEvent; split <;> simp
@[simp] theorem State.tickEvent_outEn : s.tickEvent.outEn = s.outEn := by unfold State.tickEvent; split <;> simp
@[simp] theorem State.tickEvent_lpArmed : s.tickEvent.lpArmed = s.lpArmed := by unfold State.tickEvent; split <;> simp
@[simp] theorem State.tickEvent_tmask : s.tickEvent.tmask = s.tmask := by unfold State.tickEvent; split <;> simp
@[simp] theorem State.tickEvent_seq : s.tickEvent.seq = s.seq := by unfold State.tickEvent; split <;> simp
@[simp] theorem State.tickEvent_n : s.tickEvent.n = s.n := by unfold State.tickEvent; split <;> simp
@[simp] theorem State.tickEvent_s1 : s.tickEvent.s1 = s.s1 := by unfold State.tickEvent; split <;> simp
@[simp] theorem State.tickEvent_s2 : s.tickEvent.s2 = s.s2 := by unfold State.tickEvent; split <;> simp
@[simp] theorem State.tickEvent_key : s.tickEvent.key = s.key := by unfold State.tickEvent; split <;> simp
@[simp] theorem State.tickEvent_adcBusy : s.tickEvent.adcBusy = s.adcBusy := by unfold State.tickEvent; split <;> simp
@[simp] theorem State.tickEvent_adcData : s.tickEvent.adcData = s.adcData := by unfold State.tickEvent; split <;> simp
@[simp] theorem State.tickEvent_resp : s.tickEvent.resp = s.resp := by unfold State.tickEvent; split <;> simp
@[simp] theorem State.tickEvent_respValid : s.tickEvent.respValid = s.respValid := by unfold State.tickEvent; split <;> simp
@[simp] theorem State.tickEvent_adcStartOut : s.tickEvent.adcStartOut = s.adcStartOut := by unfold State.tickEvent; split <;> simp
@[simp] theorem State.tickEvent_cfg : s.tickEvent.cfg = s.cfg := by unfold State.tickEvent; split <;> simp
@[simp] theorem State.tickEvent_inputs : s.tickEvent.inputs = s.inputs := by unfold State.tickEvent; split <;> simp
@[simp] theorem State.tickEvent_draws : s.tickEvent.draws = s.draws := by unfold State.tickEvent; split <;> simp

/-! ### openGate: the fields it never writes -/

@[simp] theorem State.openGate_stepA : s.openGate.stepA = s.stepA := by unfold State.openGate; split <;> simp
@[simp] theorem State.openGate_stepB : s.openGate.stepB = s.stepB := by unfold State.openGate; split <;> simp
@[simp] theorem State.openGate_outEn : s.openGate.outEn = s.outEn := by unfold State.openGate; split <;> simp
@[simp] theorem State.openGate_lpArmed : s.openGate.lpArmed = s.lpArmed := by unfold State.openGate; split <;> simp
@[simp] theorem State.openGate_seq : s.openGate.seq = s.seq := by unfold State.openGate; split <;> simp
@[simp] theorem State.openGate_n : s.openGate.n = s.n := by unfold State.openGate; split <;> simp
@[simp] theorem State.openGate_s1 : s.openGate.s1 = s.s1 := by unfold State.openGate; split <;> simp
@[simp] theorem State.openGate_s2 : s.openGate.s2 = s.s2 := by unfold State.openGate; split <;> simp
@[simp] theorem State.openGate_key : s.openGate.key = s.key := by unfold State.openGate; split <;> simp
@[simp] theorem State.openGate_adcBusy : s.openGate.adcBusy = s.adcBusy := by unfold State.openGate; split <;> simp
@[simp] theorem State.openGate_adcData : s.openGate.adcData = s.adcData := by unfold State.openGate; split <;> simp
@[simp] theorem State.openGate_resp : s.openGate.resp = s.resp := by unfold State.openGate; split <;> simp
@[simp] theorem State.openGate_respValid : s.openGate.respValid = s.respValid := by unfold State.openGate; split <;> simp
@[simp] theorem State.openGate_adcStartOut : s.openGate.adcStartOut = s.adcStartOut := by unfold State.openGate; split <;> simp
@[simp] theorem State.openGate_cfg : s.openGate.cfg = s.cfg := by unfold State.openGate; split <;> simp
@[simp] theorem State.openGate_inputs : s.openGate.inputs = s.inputs := by unfold State.openGate; split <;> simp
@[simp] theorem State.openGate_draws : s.openGate.draws = s.draws := by unfold State.openGate; split <;> simp

/-! ### conv1Step: the fields it never writes -/

@[simp] theorem State.conv1Step_phaseA : s.conv1Step.phaseA = s.phaseA := by unfold State.conv1Step; split <;> simp
@[simp] theorem State.conv1Step_phaseB : s.conv1Step.phaseB = s.phaseB := by unfold State.conv1Step; split <;> simp
@[simp] theorem State.conv1Step_stepA : s.conv1Step.stepA = s.stepA := by unfold State.conv1Step; split <;> simp
@[simp] theorem State.conv1Step_stepB : s.conv1Step.stepB = s.stepB := by unfold State.conv1Step; split <;> simp
@[simp] theorem State.conv1Step_outEn : s.conv1Step.outEn = s.outEn := by unfold State.conv1Step; split <;> simp
@[simp] theorem State.conv1Step_level : s.conv1Step.level = s.level := by unfold State.conv1Step; split <;> simp
@[simp] theorem State.conv1Step_tickCnt : s.conv1Step.tickCnt = s.tickCnt := by unfold State.conv1Step; split <;> simp
@[simp] theorem State.conv1Step_msFlag : s.conv1Step.msFlag = s.msFlag := by unfold State.conv1Step; split <;> simp
@[simp] theorem State.conv1Step_lpArmed : s.conv1Step.lpArmed = s.lpArmed := by unfold State.conv1Step; split <;> simp
@[simp] theorem State.conv1Step_lpCnt : s.conv1Step.lpCnt = s.lpCnt := by unfold State.conv1Step; split <;> simp
@[simp] theorem State.conv1Step_lpFlag : s.conv1Step.lpFlag = s.lpFlag := by unfold State.conv1Step; split <;> simp
@[simp] theorem State.conv1Step_tmask : s.conv1Step.tmask = s.tmask := by unfold State.conv1Step; split <;> simp
@[simp] theorem State.conv1Step_tpend : s.conv1Step.tpend = s.tpend := by unfold State.conv1Step; split <;> simp
@[simp] theorem State.conv1Step_s2 : s.conv1Step.s2 = s.s2 := by unfold State.conv1Step; split <;> simp
@[simp] theorem State.conv1Step_key : s.conv1Step.key = s.key := by unfold State.conv1Step; split <;> simp
@[simp] theorem State.conv1Step_adcData : s.conv1Step.adcData = s.adcData := by unfold State.conv1Step; split <;> simp
@[simp] theorem State.conv1Step_resp : s.conv1Step.resp = s.resp := by unfold State.conv1Step; split <;> simp
@[simp] theorem State.conv1Step_respValid : s.conv1Step.respValid = s.respValid := by unfold State.conv1Step; split <;> simp
@[simp] theorem State.conv1Step_cfg : s.conv1Step.cfg = s.cfg := by unfold State.conv1Step; split <;> simp
@[simp] theorem State.conv1Step_inputs : s.conv1Step.inputs = s.inputs := by unfold State.conv1Step; split <;> simp
@[simp] theorem State.conv1Step_draws : s.conv1Step.draws = s.draws := by unfold State.conv1Step; split <;> simp

/-! ### conv2Step: the fields it never writes -/

@[simp] theorem State.conv2Step_phaseA : s.conv2Step.phaseA = s.phaseA := by unfold State.conv2Step; split <;> simp
@[simp] theorem State.conv2Step_phaseB : s.conv2Step.phaseB = s.phaseB := by unfold State.conv2Step; split <;> simp
@[simp] theorem State.conv2Step_stepA : s.conv2Step.stepA = s.stepA := by unfold State.conv2Step; split <;> simp
@[simp] theorem State.conv2Step_stepB : s.conv2Step.stepB = s.stepB := by unfold State.conv2Step; split <;> simp
@[simp] theorem State.conv2Step_outEn : s.conv2Step.outEn = s.outEn := by unfold State.conv2Step; split <;> simp
@[simp] theorem State.conv2Step_level : s.conv2Step.level = s.level := by unfold State.conv2Step; split <;> simp
@[simp] theorem State.conv2Step_tickCnt : s.conv2Step.tickCnt = s.tickCnt := by unfold State.conv2Step; split <;> simp
@[simp] theorem State.conv2Step_msFlag : s.conv2Step.msFlag = s.msFlag := by unfold State.conv2Step; split <;> simp
@[simp] theorem State.conv2Step_lpArmed : s.conv2Step.lpArmed = s.lpArmed := by unfold State.conv2Step; split <;> simp
@[simp] theorem State.conv2Step_lpCnt : s.conv2Step.lpCnt = s.lpCnt := by unfold State.conv2Step; split <;> simp
@[simp] theorem State.conv2Step_lpFlag : s.conv2Step.lpFlag = s.lpFlag := by unfold State.conv2Step; split <;> simp
@[simp] theorem State.conv2Step_tmask : s.conv2Step.tmask = s.tmask := by unfold State.conv2Step; split <;> simp
@[simp] theorem State.conv2Step_tpend : s.conv2Step.tpend = s.tpend := by unfold State.conv2Step; split <;> simp
@[simp] theorem State.conv2Step_n : s.conv2Step.n = s.n := by unfold State.conv2Step; split <;> simp
@[simp] theorem State.conv2Step_s1 : s.conv2Step.s1 = s.s1 := by unfold State.conv2Step; split <;> simp
@[simp] theorem State.conv2Step_adcData : s.conv2Step.adcData = s.adcData := by unfold State.conv2Step; split <;> simp
@[simp] theorem State.conv2Step_cfg : s.conv2Step.cfg = s.cfg := by unfold State.conv2Step; split <;> simp
@[simp] theorem State.conv2Step_inputs : s.conv2Step.inputs = s.inputs := by unfold State.conv2Step; split <;> simp
@[simp] theorem State.conv2Step_draws : s.conv2Step.draws = s.draws := by unfold State.conv2Step; split <;> simp

/-! ### waitOver: the fields it never writes -/

@[simp] theorem State.waitOver_phaseA : s.waitOver.phaseA = s.phaseA := by unfold State.waitOver; split <;> simp
@[simp] theorem State.waitOver_phaseB : s.waitOver.phaseB = s.phaseB := by unfold State.waitOver; split <;> simp
@[simp] theorem State.waitOver_stepA : s.waitOver.stepA = s.stepA := by unfold State.waitOver; split <;> simp
@[simp] theorem State.waitOver_stepB : s.waitOver.stepB = s.stepB := by unfold State.waitOver; split <;> simp
@[simp] theorem State.waitOver_level : s.waitOver.level = s.level := by unfold State.waitOver; split <;> simp
@[simp] theorem State.waitOver_tickCnt : s.waitOver.tickCnt = s.tickCnt := by unfold State.waitOver; split <;> simp
@[simp] theorem State.waitOver_msFlag : s.waitOver.msFlag = s.msFlag := by unfold State.waitOver; split <;> simp
@[simp] theorem State.waitOver_lpArmed : s.waitOver.lpArmed = s.lpArmed := by unfold State.waitOver; split <;> simp
@[simp] theorem State.waitOver_lpCnt : s.waitOver.lpCnt = s.lpCnt := by unfold State.waitOver; split <;> simp
@[simp] theorem State.waitOver_lpFlag : s.waitOver.lpFlag = s.lpFlag := by unfold State.waitOver; split <;> simp
@[simp] theorem State.waitOver_tmask : s.waitOver.tmask = s.tmask := by unfold State.waitOver; split <;> simp
@[simp] theorem State.waitOver_tpend : s.waitOver.tpend = s.tpend := by unfold State.waitOver; split <;> simp
@[simp] theorem State.waitOver_n : s.waitOver.n = s.n := by unfold State.waitOver; split <;> simp
@[simp] theorem State.waitOver_s2 : s.waitOver.s2 = s.s2 := by unfold State.waitOver; split <;> simp
@[simp] theorem State.waitOver_key : s.waitOver.key = s.key := by unfold State.waitOver; split <;> simp
@[simp] theorem State.waitOver_adcData : s.waitOver.adcData = s.adcData := by unfold State.waitOver; split <;> simp
@[simp] theorem State.waitOver_cfg : s.waitOver.cfg = s.cfg := by unfold State.waitOver; split <;> simp
@[simp] theorem State.waitOver_inputs : s.waitOver.inputs = s.inputs := by unfold State.waitOver; split <;> simp
@[simp] theorem State.waitOver_draws : s.waitOver.draws = s.draws := by unfold State.waitOver; split <;> simp

/-! ### poll: the fields it never writes -/

@[simp] theorem State.poll_phaseA : s.poll.phaseA = s.phaseA := by unfold State.poll; split <;> simp
@[simp] theorem State.poll_phaseB : s.poll.phaseB = s.phaseB := by unfold State.poll; split <;> simp
@[simp] theorem State.poll_stepA : s.poll.stepA = s.stepA := by unfold State.poll; split <;> simp
@[simp] theorem State.poll_stepB : s.poll.stepB = s.stepB := by unfold State.poll; split <;> simp
@[simp] theorem State.poll_level : s.poll.level = s.level := by unfold State.poll; split <;> simp
@[simp] theorem State.poll_tickCnt : s.poll.tickCnt = s.tickCnt := by unfold State.poll; split <;> simp
@[simp] theorem State.poll_lpArmed : s.poll.lpArmed = s.lpArmed := by unfold State.poll; split <;> simp
@[simp] theorem State.poll_lpCnt : s.poll.lpCnt = s.lpCnt := by unfold State.poll; split <;> simp
@[simp] theorem State.poll_lpFlag : s.poll.lpFlag = s.lpFlag := by unfold State.poll; split <;> simp
@[simp] theorem State.poll_tmask : s.poll.tmask = s.tmask := by unfold State.poll; split <;> simp
@[simp] theorem State.poll_tpend : s.poll.tpend = s.tpend := by unfold State.poll; split <;> simp
@[simp] theorem State.poll_s2 : s.poll.s2 = s.s2 := by unfold State.poll; split <;> simp
@[simp] theorem State.poll_key : s.poll.key = s.key := by unfold State.poll; split <;> simp
@[simp] theorem State.poll_adcData : s.poll.adcData = s.adcData := by unfold State.poll; split <;> simp
@[simp] theorem State.poll_cfg : s.poll.cfg = s.cfg := by unfold State.poll; split <;> simp
@[simp] theorem State.poll_inputs : s.poll.inputs = s.inputs := by unfold State.poll; split <;> simp
@[simp] theorem State.poll_draws : s.poll.draws = s.draws := by unfold State.poll; split <;> simp

/-! ### seqTurn: the fields it never writes -/

@[simp] theorem State.seqTurn_phaseA : s.seqTurn.phaseA = s.phaseA := by unfold State.seqTurn; split <;> (try split) <;> simp
@[simp] theorem State.seqTurn_phaseB : s.seqTurn.phaseB = s.phaseB := by unfold State.seqTurn; split <;> (try split) <;> simp
@[simp] theorem State.seqTurn_stepA : s.seqTurn.stepA = s.stepA := by unfold State.seqTurn; split <;> (try split) <;> simp
@[simp] theorem State.seqTurn_stepB : s.seqTurn.stepB = s.stepB := by unfold State.seqTurn; split <;> (try split) <;> simp
@[simp] theorem State.seqTurn_level : s.seqTurn.level = s.level := by unfold State.seqTurn; split <;> (try split) <;> simp
@[simp] theorem State.seqTurn_tickCnt : s.seqTurn.tickCnt = s.tickCnt := by unfold State.seqTurn; split <;> (try split) <;> simp
@[simp] theorem State.seqTurn_lpArmed : s.seqTurn.lpArmed = s.lpArmed := by unfold State.seqTurn; split <;> (try split) <;> simp
@[simp] theorem State.seqTurn_lpCnt : s.seqTurn.lpCnt = s.lpCnt := by unfold State.seqTurn; split <;> (try split) <;> simp
@[simp] theorem State.seqTurn_lpFlag : s.seqTurn.lpFlag = s.lpFlag := by unfold State.seqTurn; split <;> (try split) <;> simp
@[simp] theorem State.seqTurn_tmask : s.seqTurn.tmask = s.tmask := by unfold State.seqTurn; split <;> (try split) <;> simp
@[simp] theorem State.seqTurn_tpend : s.seqTurn.tpend = s.tpend := by unfold State.seqTurn; split <;> (try split) <;> simp
@[simp] theorem State.seqTurn_adcData : s.seqTurn.adcData = s.adcData := by unfold State.seqTurn; split <;> (try split) <;> simp
@[simp] theorem State.seqTurn_cfg : s.seqTurn.cfg = s.cfg := by unfold State.seqTurn; split <;> (try split) <;> simp
@[simp] theorem State.seqTurn_inputs : s.seqTurn.inputs = s.inputs := by unfold State.seqTurn; split <;> (try split) <;> simp
@[simp] theorem State.seqTurn_draws : s.seqTurn.draws = s.draws := by unfold State.seqTurn; split <;> (try split) <;> simp

/-! ### consume: the fields it never writes -/

@[simp] theorem State.consume_phaseA : s.consume.phaseA = s.phaseA := by unfold State.consume; split <;> rfl
@[simp] theorem State.consume_phaseB : s.consume.phaseB = s.phaseB := by unfold State.consume; split <;> rfl
@[simp] theorem State.consume_stepA : s.consume.stepA = s.stepA := by unfold State.consume; split <;> rfl
@[simp] theorem State.consume_stepB : s.consume.stepB = s.stepB := by unfold State.consume; split <;> rfl
@[simp] theorem State.consume_outEn : s.consume.outEn = s.outEn := by unfold State.consume; split <;> rfl
@[simp] theorem State.consume_level : s.consume.level = s.level := by unfold State.consume; split <;> rfl
@[simp] theorem State.consume_tickCnt : s.consume.tickCnt = s.tickCnt := by unfold State.consume; split <;> rfl
@[simp] theorem State.consume_msFlag : s.consume.msFlag = s.msFlag := by unfold State.consume; split <;> rfl
@[simp] theorem State.consume_lpArmed : s.consume.lpArmed = s.lpArmed := by unfold State.consume; split <;> rfl
@[simp] theorem State.consume_lpCnt : s.consume.lpCnt = s.lpCnt := by unfold State.consume; split <;> rfl
@[simp] theorem State.consume_lpFlag : s.consume.lpFlag = s.lpFlag := by unfold State.consume; split <;> rfl
@[simp] theorem State.consume_tmask : s.consume.tmask = s.tmask := by unfold State.consume; split <;> rfl
@[simp] theorem State.consume_tpend : s.consume.tpend = s.tpend := by unfold State.consume; split <;> rfl
@[simp] theorem State.consume_seq : s.consume.seq = s.seq := by unfold State.consume; split <;> rfl
@[simp] theorem State.consume_n : s.consume.n = s.n := by unfold State.consume; split <;> rfl
@[simp] theorem State.consume_s1 : s.consume.s1 = s.s1 := by unfold State.consume; split <;> rfl
@[simp] theorem State.consume_s2 : s.consume.s2 = s.s2 := by unfold State.consume; split <;> rfl
@[simp] theorem State.consume_key : s.consume.key = s.key := by unfold State.consume; split <;> rfl
@[simp] theorem State.consume_adcBusy : s.consume.adcBusy = s.adcBusy := by unfold State.consume; split <;> rfl
@[simp] theorem State.consume_adcData : s.consume.adcData = s.adcData := by unfold State.consume; split <;> rfl
@[simp] theorem State.consume_resp : s.consume.resp = s.resp := by unfold State.consume; split <;> rfl
@[simp] theorem State.consume_respValid : s.consume.respValid = s.respValid := by unfold State.consume; split <;> rfl
@[simp] theorem State.consume_adcStartOut : s.consume.adcStartOut = s.adcStartOut := by unfold State.consume; split <;> rfl
@[simp] theorem State.consume_cfg : s.consume.cfg = s.cfg := by unfold State.consume; split <;> rfl

/-! ### resetBlock: the fields it never writes -/

@[simp] theorem State.resetBlock_cfg : s.resetBlock.cfg = s.cfg := rfl
@[simp] theorem State.resetBlock_inputs : s.resetBlock.inputs = s.inputs := rfl
@[simp] theorem State.resetBlock_draws : s.resetBlock.draws = s.draws := rfl

/-! ### resetBlock: the reset values (spec 10_state R31) -/

@[simp] theorem State.resetBlock_phaseA : s.resetBlock.phaseA = 0 := rfl
@[simp] theorem State.resetBlock_phaseB : s.resetBlock.phaseB = 0 := rfl
@[simp] theorem State.resetBlock_stepA : s.resetBlock.stepA = 0 := rfl
@[simp] theorem State.resetBlock_stepB : s.resetBlock.stepB = 0 := rfl
@[simp] theorem State.resetBlock_outEn : s.resetBlock.outEn = false := rfl
@[simp] theorem State.resetBlock_level : s.resetBlock.level = s.cfg.mid := rfl
@[simp] theorem State.resetBlock_tickCnt : s.resetBlock.tickCnt = 0 := rfl
@[simp] theorem State.resetBlock_msFlag : s.resetBlock.msFlag = false := rfl
@[simp] theorem State.resetBlock_lpArmed : s.resetBlock.lpArmed = false := rfl
@[simp] theorem State.resetBlock_lpCnt : s.resetBlock.lpCnt = s.cfg.longpressTime := rfl
@[simp] theorem State.resetBlock_lpFlag : s.resetBlock.lpFlag = false := rfl
@[simp] theorem State.resetBlock_tmask : s.resetBlock.tmask = false := rfl
@[simp] theorem State.resetBlock_tpend : s.resetBlock.tpend = false := rfl
@[simp] theorem State.resetBlock_seq : s.resetBlock.seq = .idle := rfl
@[simp] theorem State.resetBlock_n : s.resetBlock.n = 0 := rfl
@[simp] theorem State.resetBlock_s1 : s.resetBlock.s1 = 0 := rfl
@[simp] theorem State.resetBlock_s2 : s.resetBlock.s2 = 0 := rfl
@[simp] theorem State.resetBlock_key : s.resetBlock.key = 0 := rfl
@[simp] theorem State.resetBlock_adcBusy : s.resetBlock.adcBusy = false := rfl
@[simp] theorem State.resetBlock_adcData : s.resetBlock.adcData = 0 := rfl
@[simp] theorem State.resetBlock_resp : s.resetBlock.resp = 0 := rfl
@[simp] theorem State.resetBlock_respValid : s.resetBlock.respValid = false := rfl
@[simp] theorem State.resetBlock_adcStartOut : s.resetBlock.adcStartOut = false := rfl

/-! ### The two halves of the response word (spec 30_encoding R65) -/

@[simp] theorem respWord_err (e : Err) (v : Byte) : (respWord e v).extractLsb' 8 8 = e.code := by
  refine BitVec.eq_of_getLsbD_eq fun i hi => ?_
  rw [BitVec.getLsbD_extractLsb']
  change (decide (i < 8) && (e.code ++ v : BitVec (8 + 8)).getLsbD (8 + i)) = _
  rw [BitVec.getLsbD_append]
  simp [hi]

@[simp] theorem respWord_val (e : Err) (v : Byte) : (respWord e v).extractLsb' 0 8 = v := by
  refine BitVec.eq_of_getLsbD_eq fun i hi => ?_
  rw [BitVec.getLsbD_extractLsb']
  change (decide (i < 8) && (e.code ++ v : BitVec (8 + 8)).getLsbD (0 + i)) = _
  rw [BitVec.getLsbD_append]
  simp [hi]

@[simp] theorem State.respond_respErr (e : Err) (v : Byte) : (s.respond e v).respErr = e.code := respWord_err e v
@[simp] theorem State.respond_respVal (e : Err) (v : Byte) : (s.respond e v).respVal = v := respWord_val e v
@[simp] theorem State.reject_respErr (e : Err) : (s.reject e).respErr = e.code := respWord_err e 0
@[simp] theorem State.reject_respVal (e : Err) : (s.reject e).respVal = 0 := respWord_val e 0
@[simp] theorem State.playComplete_respErr : s.playComplete.respErr = 0 := respWord_err .ok 0
@[simp] theorem State.playComplete_respVal : s.playComplete.respVal = 0 := respWord_val .ok 0

@[simp] theorem Err.code_ok : Err.code .ok = 0#8 := rfl
@[simp] theorem Err.code_illegal : Err.code .illegal = 1#8 := rfl
@[simp] theorem Err.code_range : Err.code .range = 2#8 := rfl

end Sys2Proof.Machine
end

