-- ==== Sys2Proof/Laws/Tick.lean ====
section
/-! SUPPORT. What the tick step can do, said once (spec 40_tick_step). -/

namespace Sys2Proof.Machine

variable (s : State)

theorem State.oscPart_on (h : s.outEn = true) :
    s.oscPart = { s with
      level := s.mixedLevel
      phaseA := advance s.cfg s.phaseA s.stepA
      phaseB := advance s.cfg s.phaseB s.stepB } := by
  simp [State.oscPart, h]

theorem State.oscPart_off (h : s.outEn = false) : s.oscPart = { s with level := s.cfg.mid } := by
  simp [State.oscPart, h]

theorem State.clockWraps_iff : s.clockWraps = true ↔ s.tickCnt + 1 = s.cfg.ticksPerMs := by
  simp [State.clockWraps]

@[simp] theorem State.oscPart_clockWraps : s.oscPart.clockWraps = s.clockWraps := by
  simp [State.clockWraps]

/-- The counter after a tick step. -/
theorem State.tickStep_tickCnt :
    s.tickStep.tickCnt = if s.tickCnt + 1 = s.cfg.ticksPerMs then 0 else s.tickCnt + 1 := by
  simp only [State.tickStep, State.clockPart, State.oscPart_clockWraps, ← State.clockWraps_iff]
  split <;> simp

/-- The millisecond flag after a tick step. -/
theorem State.tickStep_msFlag : s.tickStep.msFlag = (s.clockWraps || s.msFlag) := by
  simp only [State.tickStep, State.clockPart, State.oscPart_clockWraps]
  split <;> simp [*]

/-- The countdown after a tick step. -/
theorem State.tickStep_lpCnt :
    s.tickStep.lpCnt =
      if s.clockWraps && s.lpArmed then (if s.lpCnt - 1 = 0 then s.cfg.longpressTime else s.lpCnt - 1)
      else s.lpCnt := by
  cases hw : s.clockWraps <;> cases ha : s.lpArmed <;>
    simp [State.tickStep, State.clockPart, State.lpPart, hw, ha]
  split <;> simp

/-- The long-press flag after a tick step. -/
theorem State.tickStep_lpFlag :
    s.tickStep.lpFlag = ((s.clockWraps && s.lpArmed && s.lpCnt - 1 == 0) || s.lpFlag) := by
  cases hw : s.clockWraps <;> cases ha : s.lpArmed <;>
    simp [State.tickStep, State.clockPart, State.lpPart, hw, ha]
  split <;> simp [*]

/-- LEVEL after a tick step. -/
theorem State.tickStep_level : s.tickStep.level = if s.outEn then s.mixedLevel else s.cfg.mid := by
  simp only [State.tickStep, State.oscPart, State.clockPart_level]
  split <;> rfl

/-- PHASE_A after a tick step. -/
theorem State.tickStep_phaseA :
    s.tickStep.phaseA = if s.outEn then advance s.cfg s.phaseA s.stepA else s.phaseA := by
  simp only [State.tickStep, State.oscPart, State.clockPart_phaseA]
  split <;> rfl

/-- PHASE_B after a tick step. -/
theorem State.tickStep_phaseB :
    s.tickStep.phaseB = if s.outEn then advance s.cfg s.phaseB s.stepB else s.phaseB := by
  simp only [State.tickStep, State.oscPart, State.clockPart_phaseB]
  split <;> rfl

end Sys2Proof.Machine
end

