-- ==== Sys2Proof/Laws/Step.lean ====
section
/-! SUPPORT. What one step can do, said once: each move's step, each command's accept step, the poll step by its three
ends (spec 41 R103, 42 R120 to R124, 43). -/

namespace Sys2Proof.Machine

variable {s t : State}

/-! ### The step by the move it takes -/

/-- Everything a step that answers a next state can be: the poll step that guarantee (c) puts first, or the next move. -/
theorem step_cases (h : step s = .next t) :
    (s.nextEvent = .tick ∧ s.pollsFirst = true ∧ t = s.quiet.poll) ∨
      ((s.nextEvent = .tick → s.pollsFirst = false) ∧ onEvent s.nextEvent s.quiet.consume = .next t) := by
  unfold step oneStep at h
  split at h
  · rename_i hc
    simp only [Bool.and_eq_true, beq_iff_eq] at hc
    exact .inl ⟨hc.1, hc.2, (Host.Outcome.next.inj h).symm⟩
  · rename_i hc
    simp only [Bool.and_eq_true, beq_iff_eq, not_and, Bool.not_eq_true] at hc
    exact .inr ⟨hc, h⟩

/-- What a move does, when it answers a next state. -/
theorem onEvent_cases {e : Event} (h : onEvent e s = .next t) :
    (e = .tick ∧ t = s.tickEvent) ∨ (∃ v, e = .adcDone v ∧ t = s.adcDone v) ∨
      (∃ w, e = .command w ∧ presentWord w s = .next t) ∨ (e = .takeResponse ∧ t = s) ∨
      (e = .seqTurn ∧ t = s.seqTurn) ∨ (e = .reset ∧ t = s.resetBlock) := by
  cases e <;> simp_all [onEvent, eq_comm]

/-- A presented word is accepted only in IDLE; otherwise nothing happens (spec 30_encoding R67). -/
theorem presentWord_cases {w : CmdWord} (h : presentWord w s = .next t) :
    (s.seq ≠ .idle ∧ t = s) ∨ (s.seq = .idle ∧ acceptWord w s = .next t) := by
  unfold presentWord State.cmdReady at h
  split at h
  · exact .inr ⟨by simp_all, h⟩
  · exact .inl ⟨by simp_all, (Host.Outcome.next.inj h).symm⟩

/-- An accepted word is executed, or rejected with ERR_ILLEGAL (spec 60_exceptions R201). -/
theorem acceptWord_cases {w : CmdWord} (h : acceptWord w s = .next t) :
    (∃ i, decode w = .instr i ∧ exec i s = .next t) ∨
      (∃ why, decode w = .illegal why ∧ t = s.beginAccept.reject .illegal) := by
  unfold acceptWord at h
  split at h
  · exact .inl ⟨_, by assumption, h⟩
  · exact .inr ⟨_, by assumption, (Host.Outcome.next.inj h).symm⟩

/-! ### The poll step -/

@[simp] theorem half_sub_one_eq_zero (x : Half) : x - 1#16 = 0#16 ↔ x = 1#16 := by
  constructor <;> intro h <;> bv_omega

/-- A countdown that is not 0 goes down by one. -/
theorem half_pred (x : Half) (h : 1 ≤ x.toNat) : (x - 1).toNat = x.toNat - 1 := by bv_omega

theorem State.poll_more (h : s.n ≠ 1) : s.poll = s.countDown := by
  rw [State.poll, if_neg]
  simpa using h

theorem State.poll_last (h : s.n = 1) : s.poll = s.countDown.waitOver := by
  rw [State.poll, if_pos]
  simp [h]

/-- The poll step that ends a PLAY (spec 41 R102). -/
theorem State.poll_play (hs : s.seq = .playWait) (h : s.n = 1) : s.poll = s.countDown.playComplete := by
  rw [State.poll_last h]; simp [State.waitOver, hs]

/-- The poll step that ends a SLEEP (spec 41 R104). -/
theorem State.poll_sleep (hs : s.seq = .sleepWait) (h : s.n = 1) : s.poll = s.countDown.respond .ok 0 := by
  rw [State.poll_last h]; simp [State.waitOver, hs]

/-- The poll step that ends a debounce (spec 42 R123). -/
theorem State.poll_debounce (hs : s.seq = .gkDebounce) (h : s.n = 1) : s.poll = s.countDown.secondConversion := by
  rw [State.poll_last h]; simp [State.waitOver, hs]

/-! ### The sequencer's turn by the state it stands in -/

theorem State.seqTurn_wait (h : s.seq.isWait = true) : s.seqTurn = if s.msFlag then s.poll else s := by
  unfold State.seqTurn
  split <;> simp_all [Seq.isWait]

theorem State.seqTurn_idle (h : s.seq = .idle) : s.seqTurn = s := by
  simp [State.seqTurn, h]

theorem State.seqTurn_conv1 (h : s.seq = .gkConv1) : s.seqTurn = if s.adcBusy then s else s.conv1Step := by
  simp [State.seqTurn, h]

theorem State.seqTurn_conv2 (h : s.seq = .gkConv2) : s.seqTurn = if s.adcBusy then s else s.conv2Step := by
  simp [State.seqTurn, h]

/-! ### The next move -/

theorem State.nextEvent_cons {e : Event} {rest : List Event} (h : s.inputs = e :: rest) : s.nextEvent = e := by
  simp [State.nextEvent, h]

theorem State.pollsFirst_iff :
    s.pollsFirst = true ↔
      s.seq.isWait = true ∧ s.msFlag = true ∧ s.tmask = false ∧ s.tickCnt + 1 = s.cfg.ticksPerMs := by
  simp [State.pollsFirst, State.clockWraps_iff, and_assoc]

end Sys2Proof.Machine
end

