-- ==== Sys2Proof/Laws/Runs.lean ====
section
/-! SUPPORT. What taking one move can do, said once, move by move (spec 00_scope R3, 20_memory R51, R54). -/

namespace Sys2Proof.Machine

variable {s : State}

/-- Every move but a tick event that a poll step goes before is that move's own effect. -/
theorem State.take_event {e : Event} (h : e = .tick → s.pollsFirst = false) :
    s.take e =
      match onEvent e { s.quiet with inputs := [] } with
      | .next t => .next { t with inputs := s.inputs }
      | .fault f => .fault f
      | .refused r => .refused r := by
  have hn : ({ s with inputs := [e] } : State).nextEvent = e := rfl
  have hp : (e == .tick && ({ s with inputs := [e] } : State).pollsFirst) = false := by
    by_cases he : e = .tick
    · simp [show ({ s with inputs := [e] } : State).pollsFirst = false from h he]
    · simp [he]
  rw [State.take, step, oneStep, hn, hp]
  rfl

theorem State.take_tick (h : s.pollsFirst = false) :
    s.take .tick = .next { ({ s.quiet with inputs := [] } : State).tickEvent with inputs := s.inputs } := by
  rw [State.take_event fun _ => h]; rfl

theorem State.take_seqTurn :
    s.take .seqTurn = .next { ({ s.quiet with inputs := [] } : State).seqTurn with inputs := s.inputs } := by
  rw [State.take_event (e := .seqTurn) (fun h => nomatch h)]; rfl

theorem State.take_adcDone (v : Byte) :
    s.take (.adcDone v) = .next { ({ s.quiet with inputs := [] } : State).adcDone v with inputs := s.inputs } := by
  rw [State.take_event (e := .adcDone v) (fun h => nomatch h)]; rfl

theorem State.take_response : s.take .takeResponse = .next s.quiet := by
  rw [State.take_event (e := .takeResponse) (fun h => nomatch h)]; rfl

/-- Where a poll step goes before a tick event, the move is that poll step (log 4). -/
theorem State.take_poll (h : s.pollsFirst = true) :
    s.take .tick = .next { ({ s.quiet with inputs := [.tick] } : State).poll with inputs := s.inputs } := by
  have hp : ({ s with inputs := [.tick] } : State).pollsFirst = true := h
  rw [State.take, step, oneStep]
  simp only [hp, State.nextEvent, beq_self_eq_true, Bool.and_self, if_true]
  rfl

end Sys2Proof.Machine
end

