-- ==== Sys2Proof/Laws/Store.lean ====
section
/-! SUPPORT. The laws of the host's non-volatile store, the one memory of the package: a byte read after a write, and
the canonical form kept by every write. -/

namespace Sys2Proof.Machine

/-- A rising list may start lower. -/
theorem risingFrom_mono {cs : List Host.Cell} {low low' : Nat} (h : low ≤ low') (hr : risingFrom low' cs = true) :
    risingFrom low cs = true := by
  cases cs with
  | nil => rfl
  | cons c rest =>
    simp only [risingFrom, Bool.and_eq_true, decide_eq_true_eq] at hr ⊢
    exact ⟨by omega, hr.2⟩

/-- An address below a rising list is not listed. -/
theorem readCell_below {cs : List Host.Cell} {low a : Nat} (hr : risingFrom low cs = true) (h : a < low) :
    readCell cs a = eraseSentinel := by
  induction cs generalizing low with
  | nil => rfl
  | cons c rest ih =>
    obtain ⟨b, v⟩ := c
    simp only [risingFrom, Bool.and_eq_true, decide_eq_true_eq] at hr
    rw [readCell, if_neg (by omega), ih hr.2 (by omega)]

/-- Reading any byte after writing one. -/
theorem readCell_writeCell {cs : List Host.Cell} {low : Nat} (hr : risingFrom low cs = true) (a b : Nat) (x : Byte) :
    readCell (writeCell cs a x) b = if b = a then x else readCell cs b := by
  induction cs generalizing low with
  | nil =>
    by_cases hx : x = eraseSentinel <;> by_cases hb : b = a <;> simp [writeCell, readCell, hx, hb]
  | cons c rest ih =>
    obtain ⟨p, v⟩ := c
    simp only [risingFrom, Bool.and_eq_true, decide_eq_true_eq] at hr
    have hp : readCell rest p = eraseSentinel := readCell_below hr.2 (by omega)
    rcases Nat.lt_trichotomy a p with h | rfl | h
    · have ha : readCell rest a = eraseSentinel := readCell_below hr.2 (by omega)
      have hap : a ≠ p := by omega
      by_cases hx : x = eraseSentinel <;> by_cases hb : b = a <;> simp [writeCell, readCell, *]
    · by_cases hx : x = eraseSentinel <;> by_cases hb : b = a <;> simp [writeCell, readCell, *]
    · rw [writeCell, if_neg (by omega), if_neg (by omega), readCell, readCell, ih hr.2]
      split_ifs <;> first | rfl | omega

/-- Writing keeps the addresses rising. -/
theorem risingFrom_writeCell {cs : List Host.Cell} {low a : Nat} (hr : risingFrom low cs = true) (h : low ≤ a)
    (x : Byte) : risingFrom low (writeCell cs a x) = true := by
  induction cs generalizing low with
  | nil => by_cases hx : x = eraseSentinel <;> simp [writeCell, risingFrom, hx, h]
  | cons c rest ih =>
    obtain ⟨p, v⟩ := c
    simp only [risingFrom, Bool.and_eq_true, decide_eq_true_eq] at hr
    rcases Nat.lt_trichotomy a p with ha | rfl | ha
    · by_cases hx : x = eraseSentinel <;> simp [writeCell, risingFrom, hx, ha, hr, h]
    · by_cases hx : x = eraseSentinel <;> simp [writeCell, risingFrom, hx, hr]
      exact risingFrom_mono (by omega) hr.2
    · have hap : ¬ a < p := by omega
      have hne : a ≠ p := by omega
      simp [writeCell, risingFrom, hap, hne, hr.1, ih hr.2 (by omega)]

/-- Every entry after a write was there before, or is the byte written. -/
theorem mem_writeCell {cs : List Host.Cell} {a : Nat} {x : Byte} {c : Host.Cell} (h : c ∈ writeCell cs a x) :
    c ∈ cs ∨ (c = (a, x) ∧ x ≠ eraseSentinel) := by
  induction cs with
  | nil =>
    by_cases hx : x = eraseSentinel <;> simp [writeCell, hx] at h
    exact .inr ⟨h, hx⟩
  | cons d rest ih =>
    obtain ⟨p, v⟩ := d
    unfold writeCell at h
    split_ifs at h with h1 hx h2 hx <;> simp only [List.mem_cons] at h ⊢ <;> aesop

/-- Every write keeps the canonical form. -/
theorem Store.write_wf {m m' : Store} {a : Nat} {x : Byte} (hw : m.wf = true) (h : m.write a x = some m') :
    m'.wf = true := by
  unfold Store.write at h
  split at h
  · rename_i ha
    obtain rfl := Option.some.inj h
    simp only [Store.wf, Bool.and_eq_true, List.all_eq_true, decide_eq_true_eq, bne_iff_ne] at hw ⊢
    refine ⟨risingFrom_writeCell hw.1 (Nat.zero_le a) x, fun c hc => ?_⟩
    rcases mem_writeCell hc with h' | ⟨rfl, hx⟩
    · exact hw.2 c h'
    · exact ⟨ha, hx⟩
  · exact absurd h (by simp)

/-- Reading any byte after writing one. -/
theorem Store.read_write {m m' : Store} {a b : Nat} {x : Byte} (hw : m.wf = true) (h : m.write a x = some m') :
    m'.read b = if b = a then some x else m.read b := by
  unfold Store.write at h
  split at h
  · rename_i ha
    obtain rfl := Option.some.inj h
    simp only [Store.wf, Bool.and_eq_true] at hw
    simp only [Store.read, readCell_writeCell hw.1]
    split_ifs <;> simp_all
  · exact absurd h (by simp)

end Sys2Proof.Machine
end

