-- ==== Sys2Proof/Machine/Assembler.lean ====
section
/-! DEFINITION. The textual form of a command and the two pseudo-commands (spec 30_encoding R68, R69), over lists of
characters. -/

namespace Sys2Proof.Machine

/-! ### Pseudo-commands (R69) -/

/-- A line of a listing: a command, or one of the two pseudo-commands. -/
inductive AsmLine where
  | command (i : Instr)
  /-- `TONE d, f` -/
  | tone (d f : Half)
  /-- `PAUSE n` -/
  | pause (n : Half)
  deriving DecidableEq, Repr

/-- `TONE d, f` is `PLAY d, f, 0`, a single tone; `PAUSE n` is `SLEEP n` (R69). -/
def AsmLine.expand : AsmLine → Instr
  | .command i => i
  | .tone d f => .play d f 0
  | .pause n => .sleep n

/-! ### Reading a line (R68) -/

/-- The value of a digit in a base up to 16; letters of either case. -/
def digitValue (c : Char) : Option Nat :=
  if '0'.toNat ≤ c.toNat ∧ c.toNat ≤ '9'.toNat then some (c.toNat - '0'.toNat)
  else if 'a'.toNat ≤ c.toNat ∧ c.toNat ≤ 'f'.toNat then some (c.toNat - 'a'.toNat + 10)
  else if 'A'.toNat ≤ c.toNat ∧ c.toNat ≤ 'F'.toNat then some (c.toNat - 'A'.toNat + 10)
  else none

/-- The digits after the first, on top of the value read so far. -/
def readDigits (base : Nat) : Nat → List Char → Option Nat
  | acc, [] => some acc
  | acc, c :: rest =>
    match digitValue c with
    | some d => if d < base then readDigits base (acc * base + d) rest else none
    | none => none

/-- An operand: decimal, or hexadecimal after `0x` (R68); one that does not fit a u16 is none (R61). -/
def readOperand (cs : List Char) : Option Half :=
  let value :=
    match cs with
    | [] => none
    | ['0', 'x'] => none
    | '0' :: 'x' :: digits => readDigits 16 0 digits
    | digits => readDigits 10 0 digits
  match value with
  | some v => if v < 65536 then some (BitVec.ofNat 16 v) else none
  | none => none

/-- The part of a line before its comment (R68: `;` starts a comment). -/
def withoutComment (cs : List Char) : List Char := cs.takeWhile (· != ';')

/-- A text cut at commas. -/
def splitCommas : List Char → List (List Char)
  | [] => [[]]
  | c :: rest =>
    if c == ',' then [] :: splitCommas rest
    else
      match splitCommas rest with
      | [] => [[c]]
      | part :: parts => (c :: part) :: parts

/-- A text without the blanks at its two ends. -/
def trimBlanks (cs : List Char) : List Char :=
  ((cs.dropWhile (· == ' ')).reverse.dropWhile (· == ' ')).reverse

/-- Every operand of a list, or none. -/
def readOperands : List (List Char) → Option (List Half)
  | [] => some []
  | cs :: rest =>
    match readOperand (trimBlanks cs), readOperands rest with
    | some v, some vs => some (v :: vs)
    | _, _ => none

/-- The mnemonics, in upper case (R68), with the operands each takes, in the order A, B, C. -/
def lineOf (mnemonic : List Char) (operands : List Half) : Option AsmLine :=
  match operands with
  | [] =>
    if mnemonic = "GETKEY".toList then some (.command .getkey)
    else if mnemonic = "ARM".toList then some (.command .arm)
    else if mnemonic = "DISARM".toList then some (.command .disarm)
    else if mnemonic = "LPTAKE".toList then some (.command .lptake)
    else if mnemonic = "TMASK".toList then some (.command .tmask)
    else if mnemonic = "TUNMASK".toList then some (.command .tunmask)
    else if mnemonic = "STAT".toList then some (.command .stat)
    else none
  | [n] =>
    if mnemonic = "SLEEP".toList then some (.command (.sleep n))
    else if mnemonic = "PAUSE".toList then some (.pause n)
    else none
  | [d, f] => if mnemonic = "TONE".toList then some (.tone d f) else none
  | [a, b, c] => if mnemonic = "PLAY".toList then some (.command (.play a b c)) else none
  | _ => none

/-- What reading a line gives. -/
inductive AsmResult where
  /-- one command -/
  | line (l : AsmLine)
  /-- nothing but blanks and a comment -/
  | blank
  /-- not a line of this syntax -/
  | malformed
  deriving DecidableEq, Repr

/-- Reading one line (R68): the mnemonic, then the operands separated by commas. -/
def readLine (text : List Char) : AsmResult :=
  let body := trimBlanks (withoutComment text)
  if body = [] then .blank
  else
    let mnemonic := body.takeWhile (· != ' ')
    let tail := trimBlanks (body.dropWhile (· != ' '))
    let operands := if tail = [] then some [] else readOperands (splitCommas tail)
    match operands with
    | some vs =>
      match lineOf mnemonic vs with
      | some l => .line l
      | none => .malformed
    | none => .malformed

/-! ### Writing a line (R68) -/

/-- The mnemonic of a command. -/
def mnemonicOf : Instr → String
  | .play _ _ _ => "PLAY"
  | .sleep _ => "SLEEP"
  | .getkey => "GETKEY"
  | .arm => "ARM"
  | .disarm => "DISARM"
  | .lptake => "LPTAKE"
  | .tmask => "TMASK"
  | .tunmask => "TUNMASK"
  | .stat => "STAT"

/-- An operand in decimal. -/
def writeOperand (v : Half) : List Char := Nat.toDigits 10 v.toNat

/-- A command as a line: the mnemonic, then its operands in decimal in the order A, B, C. -/
def writeLine (i : Instr) : List Char :=
  match i with
  | .play a b c =>
    (mnemonicOf i).toList ++ ' ' :: (writeOperand a ++ ',' :: ' ' :: (writeOperand b ++ ',' :: ' ' :: writeOperand c))
  | .sleep n => (mnemonicOf i).toList ++ ' ' :: writeOperand n
  | _ => (mnemonicOf i).toList

end Sys2Proof.Machine
end

