-- ==== Sys2Proof/Tests/Slice0.lean ====
section
/-! SUPPORT. Tests of single steps, with the expected results of spec 95_test_vectors and the words of spec 30_encoding
R62, and a witness for the hypotheses of each statement. -/

namespace Sys2Proof.Tests

set_option Elab.async false

open Sys2Proof.Machine

/-! ### Helpers -/

/-- The state an outcome leads to, or the given one where it leads to none. -/
def reached (s : State) (o : Host.Outcome State Fault Refusal) : State :=
  match o with
  | .next t => t
  | .fault _ => s
  | .refused _ => s

/-- An outcome is a next state. -/
def isNext (o : Host.Outcome State Fault Refusal) : Bool :=
  match o with
  | .next _ => true
  | .fault _ => false
  | .refused _ => false

/-- The state after a step. -/
def after (s : State) : State := reached s (step s)

/-- A state with one move listed. -/
def offer (e : Event) (s : State) : State := { s with inputs := [e] }

/-- The state after one step on this move. -/
def move (e : Event) (s : State) : State := after (offer e s)

/-- The state after one step on this word. -/
def present (w : CmdWord) (s : State) : State := move (.command w) s

theorem next_of {s : State} {o : Host.Outcome State Fault Refusal} (h : isNext o = true) : o = .next (reached s o) := by
  cases o <;> simp_all [isNext, reached]

theorem step_after {s : State} (h : isNext (step s) = true) : step s = .next (after s) := next_of h

/-- A run made one step longer, with its count of tick steps worked out. -/
theorem runs_more {P : State → Prop} {s m : State} {T T' : Nat} (h : RunsTo P s T m) (hp : P m)
    (hs : isNext (step m) = true) (hT : T' = T + m.tickSteps) : RunsTo P s T' (after m) :=
  hT ▸ .more h hp (step_after hs)

/-- A small configuration: one tick step per millisecond, a threshold of one millisecond, no debounce wait. -/
def quickConfig : Config where
  toParams := { Params.ref with fTick := 1000, longpressTime := 1, debounceMs := 0 }
  ok := by decide +kernel

/-- Reset under the small configuration. -/
def quick : State := State.ofConfig quickConfig

/-- V-TICK-1's state: the tone of V-PLAY-1, just accepted. -/
def toned : State :=
  { State.reset with outEn := true, stepA := 922, stepB := 1331, seq := .playWait, n := 2 }

/-- A state with the clock at `c` and the millisecond flag at `g`. -/
def clockAt (c : Nat) (g : Bool) : State := { State.reset with tickCnt := c, msFlag := g }

/-- A wait in the sequencer state `q` with `m` milliseconds to go. -/
def waiting (q : Seq) (m : Half) (c : Nat) (g : Bool) : State :=
  { clockAt c g with seq := q, n := m, outEn := q == .playWait }

/-- The long-press arbiter armed at a count, in the last tick step of a millisecond. -/
def armedAt (cnt : Half) (flag : Bool) : State :=
  { clockAt 31 false with lpArmed := true, lpCnt := cnt, lpFlag := flag }

/-- A GETKEY in the sequencer state `q`. -/
def decoding (q : Seq) (busy : Bool) (first now : Byte) : State :=
  { State.reset with seq := q, adcBusy := busy, s1 := first, adcData := now }

/-! ### Ill-formed terms -/

theorem test_wf_reserved : ({ op := 1, a := 1, b := 900, c := 1300, z := 1 } : Fields).wellFormed = false := by decide
theorem test_wf_opcode :
    ({ op := 0x00, a := 0, b := 0, c := 0, z := 0 } : Fields).wellFormed = false ∧
      ({ op := 0x0A, a := 0, b := 0, c := 0, z := 0 } : Fields).wellFormed = false ∧
      ({ op := 0xFF, a := 0, b := 0, c := 0, z := 0 } : Fields).wellFormed = false := by decide
theorem test_wf_unused :
    ({ op := 2, a := 5, b := 1, c := 0, z := 0 } : Fields).wellFormed = false ∧
      ({ op := 2, a := 5, b := 0, c := 1, z := 0 } : Fields).wellFormed = false ∧
      ({ op := 4, a := 1, b := 0, c := 0, z := 0 } : Fields).wellFormed = false := by decide
theorem test_wf_legal : ({ op := 1, a := 0, b := 65535, c := 0, z := 0 } : Fields).wellFormed = true := by decide
/-- A fraction too wide, a carrier slower than 1 kHz, a threshold of 0, `MIX = SUM`, a broken table (R1, R41). -/
theorem test_wf_params :
    ({ Params.ref with frac := 24 }).wf = false ∧ ({ Params.ref with fTick := 999 }).wf = false ∧
      ({ Params.ref with longpressTime := 0 }).wf = false ∧ ({ Params.ref with mix := .sum }).wf = false ∧
      ({ Params.ref with wave := 0 :: waveRef.drop 1 }).wf = false ∧
      ({ Params.ref with bands := bandsRef.drop 1 }).wf = false := by decide +kernel

/-! ### Decoding: words bit by bit, OP, A, B, C, Z as in the encoding column of R62 -/

theorem test_decode_play :
    decode 0b0000000100000000010010110000001110000100000001010001010000000000 = .instr (.play 75 900 1300) := by decide
theorem test_decode_sleep :
    decode 0b0000001000000000001000100000000000000000000000000000000000000000 = .instr (.sleep 34) := by decide
theorem test_decode_getkey :
    decode 0b0000001100000000000000000000000000000000000000000000000000000000 = .instr .getkey := by decide
theorem test_decode_arm :
    decode 0b0000010000000000000000000000000000000000000000000000000000000000 = .instr .arm := by decide
theorem test_decode_disarm :
    decode 0b0000010100000000000000000000000000000000000000000000000000000000 = .instr .disarm := by decide
theorem test_decode_lptake :
    decode 0b0000011000000000000000000000000000000000000000000000000000000000 = .instr .lptake := by decide
theorem test_decode_tmask :
    decode 0b0000011100000000000000000000000000000000000000000000000000000000 = .instr .tmask := by decide
theorem test_decode_tunmask :
    decode 0b0000100000000000000000000000000000000000000000000000000000000000 = .instr .tunmask := by decide
theorem test_decode_stat :
    decode 0b0000100100000000000000000000000000000000000000000000000000000000 = .instr .stat := by decide
/-- V-ILL-1, V-ILL-5, V-ILL-9: the reasons in the order of R64. -/
theorem test_decode_illegal :
    decode 0x0000000000000000 = .illegal .unknownOpcode ∧ decode 0x0300000000000100 = .illegal .unusedOperand ∧
      decode 0x01000100007D0001 = .illegal .reservedZ := by decide
/-- R47: the opcode is the first byte. -/
theorem test_decode_bytes :
    decodeBytes [0x02, 0x00, 0x22, 0, 0, 0, 0, 0, 0x55] = some (.instr (.sleep 34), [0x55]) ∧
      decodeBytes [0x02, 0x00, 0x22, 0, 0, 0, 0] = none := by decide
theorem test_table_word :
    decodeTableWord 64 0x0300000000000000 = some .getkey ∧ decodeTableWord 64 0x0300000000000100 = none := by decide
/-- R68, R69: the listing form. -/
theorem test_read_line :
    readLine "PLAY 75, 900, 0x514 ; MF 5".toList = .line (.command (.play 75 900 1300)) ∧
      (AsmLine.tone 75 900).expand = .play 75 900 0 ∧ readLine "SLEEP 65536".toList = .malformed := by decide +kernel

/-! ### One step of each instruction -/

/-- V-PLAY-1's accept. -/
theorem test_play_accept :
    let t := present 0x0100020384051400 State.reset
    t.stepA = 922 ∧ t.stepB = 1331 ∧ t.n = 2 ∧ t.outEn = true ∧ t.seq = .playWait ∧ t.respValid = false := by
  decide +kernel
/-- V-PLAY-5 and V-PLAY-4: an operand out of range, and a duration of 0. -/
theorem test_play_at_once :
    (present 0x0100017D00000000 State.reset).resp = 0x0200 ∧ (present 0x0100017D00000000 State.reset).stepA = 0 ∧
      (present 0x0100000384051400 State.reset).resp = 0x0000 ∧
      (present 0x0100000384051400 State.reset).stepA = 922 ∧
      (present 0x0100000384051400 State.reset).seq = .idle := by decide +kernel
/-- V-SLP-10: a sleep of 0 leaves the flag. -/
theorem test_sleep_zero :
    let t := present 0x0200000000000000 (clockAt 5 true)
    t.respValid = true ∧ t.msFlag = true ∧ t.tickCnt = 5 := by decide +kernel
/-- V-SLP-6: a stale flag is the whole wait of one millisecond. -/
theorem test_sleep_stale :
    let t := move .seqTurn (present 0x0200010000000000 (clockAt 0 true))
    t.resp = 0x0000 ∧ t.respValid = true ∧ t.msFlag = false := by decide +kernel
/-- V-KEY-1's accept. -/
theorem test_getkey_accept :
    let t := present 0x0300000000000000 State.reset
    t.adcBusy = true ∧ t.seq = .gkConv1 ∧ t.ports.adcStart = true := by decide +kernel
/-- V-KEY-1's last step; V-KEY-7: readings that differ by any amount are a retry. -/
theorem test_getkey_compare :
    let t := move .seqTurn (decoding .gkConv2 false 90 90)
    let u := move .seqTurn (decoding .gkConv2 false 90 141)
    t.resp = 0x0005 ∧ t.s2 = 90 ∧ t.key = 5 ∧ t.respValid = true ∧
      u.seq = .gkConv1 ∧ u.adcBusy = true ∧ u.s2 = 141 ∧ u.respValid = false := by decide +kernel
/-- V-LP-6. -/
theorem test_arm_restarts :
    let t := present 0x0400000000000000 (armedAt 500 true)
    t.lpCnt = 2000 ∧ t.lpArmed = true ∧ t.lpFlag = false := by decide +kernel
/-- V-LP-1, row 10. -/
theorem test_disarm_drops :
    let t := present 0x0500000000000000 (armedAt 2000 true)
    t.lpCnt = 2000 ∧ t.lpArmed = false ∧ t.lpFlag = false := by decide +kernel
/-- V-LP-1, rows 6 and 7. -/
theorem test_lptake_twice :
    let t := present 0x0600000000000000 (armedAt 2000 true)
    t.resp = 0x0001 ∧ (present 0x0600000000000000 t).resp = 0x0000 ∧ t.lpArmed = true := by decide +kernel
/-- V-MSK-1 and V-MSK-2: the events of a closed gate merge. -/
theorem test_tmask_latches :
    let t := present 0x0700000000000000 (clockAt 30 false)
    t.tmask = true ∧ (move .tick t).tpend = true ∧ (move .tick t).tickCnt = 30 := by decide +kernel
/-- V-MSK-3: the remembered tick step happens in the accept step. -/
theorem test_tunmask_performs :
    let t := present 0x0800000000000000 { clockAt 30 false with tmask := true, tpend := true }
    t.tickCnt = 31 ∧ t.tpend = false ∧ t.tmask = false := by decide +kernel
/-- V-MSK-5: with nothing remembered, none. -/
theorem test_tunmask_idle : (present 0x0800000000000000 State.reset).tickCnt = 0 := by decide +kernel
/-- V-LP-1, row 5; V-MSK-2; V-MSK-4. -/
theorem test_stat_values :
    (present 0x0900000000000000 (armedAt 2000 true)).resp = 0x000C ∧
      (present 0x0900000000000000 { State.reset with tmask := true, tpend := true }).resp = 0x0030 ∧
      (present 0x0900000000000000 (clockAt 0 true)).resp = 0x0002 := by decide +kernel
/-- V-ILL-9: illegal wins over range. -/
theorem test_illegal_first :
    (present 0x01000100007D0001 State.reset).resp = 0x0100 ∧
      (present 0x01000100007D0001 State.reset).respValid = true := by decide +kernel

/-! ### The tick step, the converter and reset -/

/-- V-TICK-2: the index is `phase >> 7`, and the average rounds down. -/
theorem test_tick_mixes :
    let t := move .tick { toned with phaseA := 8192 }
    t.level = 191 ∧ t.phaseA = 9114 ∧ t.phaseB = 1331 := by decide +kernel
/-- V-TICK-5: a wrap at exactly TLS, and the largest sum. -/
theorem test_tick_wraps :
    let t := move .tick { toned with phaseA := 32767, phaseB := 32767, stepA := 1, stepB := 32767 }
    t.level = 125 ∧ t.phaseA = 0 ∧ t.phaseB = 32766 := by decide +kernel
/-- V-TICK-9: disabled. -/
theorem test_tick_silent :
    let t := move .tick { toned with outEn := false, seq := .idle, level := 200, phaseA := 12345 }
    t.level = 128 ∧ t.phaseA = 12345 ∧ t.stepA = 922 := by decide +kernel
/-- V-TICK-14 and V-TICK-13: expiry, and a plain decrement. -/
theorem test_tick_longpress :
    (move .tick (armedAt 1 false)).lpCnt = 2000 ∧ (move .tick (armedAt 1 false)).lpFlag = true ∧
      (move .tick (armedAt 2 false)).lpCnt = 1 ∧ (move .tick (armedAt 2 false)).lpFlag = false := by decide +kernel
/-- The table of spec 95 section 7.1 at the edges of the bands. -/
theorem test_classify :
    [0, 7, 8, 26, 27, 121, 122, 235, 236, 254, 255].map (classify Config.ref) =
      [0, 0, 1, 1, 2, 6, 7, 12, 13, 13, 0] := by decide +kernel
/-- V-RST-4: the late completion is ignored. -/
theorem test_reset_late :
    let t := move (.adcDone 90) (move .reset (decoding .gkConv1 true 0 0))
    t.adcBusy = false ∧ t.adcData = 0 ∧ t.cmdReady = true := by decide +kernel
/-- The very next step runs the placed word. -/
theorem test_fetch_word :
    step (State.reset.withFetchWord 64 0x0400000000000000) = exec .arm State.reset := rfl

/-! ### Witnesses: states and operands that meet the hypotheses of the statements -/

theorem witness_arm : State.reset.tickCnt + 31 < State.reset.cfg.ticksPerMs ∧
    (clockAt 31 false).tickCnt < (clockAt 31 false).cfg.ticksPerMs := by decide +kernel
theorem witness_inv_idle : (clockAt 10 false).Inv := by constructor <;> decide +kernel
theorem witness_inv_play : (waiting .playWait 1 31 true).Inv := by constructor <;> decide +kernel
theorem witness_inv_debounce : (waiting .gkDebounce 1 31 true).Inv := by constructor <;> decide +kernel
theorem witness_inv_conv1 : (decoding .gkConv1 true 0 0).Inv := by constructor <;> decide +kernel
theorem witness_inv_conv2 : (decoding .gkConv2 true 90 90).Inv := by constructor <;> decide +kernel
theorem witness_disarm : (clockAt 10 false).lpArmed = false ∧ (clockAt 10 false).seq = .idle := by decide +kernel
theorem witness_lptake : (armedAt 500 true).lpFlag = true := by decide +kernel
/-- Both sides of the schedule hold: under the small configuration the first tick step raises the flag. -/
theorem witness_longPressSchedule :
    quick.tickCnt < quick.cfg.ticksPerMs ∧ exec .arm quick = .next (reached quick (exec .arm quick)) ∧
      ({ reached quick (exec .arm quick) with lpFlag := false } : State).tickStep.lpFlag = true ∧
      0 + 1 = (quick.cfg.ticksPerMs - quick.tickCnt) + (quick.cfg.longpressTime.toNat - 1) * quick.cfg.ticksPerMs +
        0 * quick.cfg.longpressTime.toNat * quick.cfg.ticksPerMs :=
  ⟨by decide +kernel, next_of (by decide +kernel), by decide +kernel, by decide +kernel⟩
theorem witness_gate :
    ({ State.reset with tmask := true, tpend := true } : State).tmask = true ∧ State.reset.tpend = false := by
  decide +kernel
/-- TPEND consumed by TUNMASK, and by reset. -/
theorem witness_tickEventGate :
    let s := { State.reset with tmask := true, tpend := true }
    isNext (step (offer (.command 0x0800000000000000) s)) = true ∧ s.tpend = true ∧
      (present 0x0800000000000000 s).tpend = false ∧ (present 0x0800000000000000 s).tmask = false ∧
      isNext (step (offer .reset s)) = true ∧ (move .reset s).tpend = false := by decide +kernel

/-- TPEND set at a closed gate. -/
theorem witness_tickEventGate_set :
    let s := { State.reset with tmask := true }
    isNext (step (offer .tick s)) = true ∧ s.tpend = false ∧ (move .tick s).tpend = true := by decide +kernel
/-- V-ILL-6, V-ILL-4 and V-ILL-5 as fields. -/
theorem witness_illegalFields :
    (fieldsOf 0x0100010384051401).op = 0x01 ∧ (fieldsOf 0x0100010384051401).z ≠ 0 ∧
      (fieldsOf 0x0200050001000000).op = 0x02 ∧ (fieldsOf 0x0200050001000000).b ≠ 0 ∧
      (fieldsOf 0x0300000000000100).op = 0x03 ∧ (fieldsOf 0x0300000000000100).c ≠ 0 := by decide

/-- A masked wait with a stale flag and two milliseconds to go, offered a tick event and then the sequencer's turn. -/
def maskedWait (m : Half) (g : Bool) : State :=
  { waiting .sleepWait m 31 g with tmask := true, inputs := [.tick, .seqTurn] }

theorem witness_maskedWait :
    RunsTo (fun m => m.nextEvent ≠ .reset) (maskedWait 2 true) 0 (after (after (maskedWait 2 true))) ∧
      (maskedWait 2 true).tmask = true ∧ (maskedWait 2 true).seq.isWait = true ∧ 2 ≤ (maskedWait 2 true).n.toNat :=
  ⟨runs_more (runs_more (.here _) (by decide +kernel) (by decide +kernel) (by decide +kernel : 0 = _))
    (by decide +kernel) (by decide +kernel) (by decide +kernel), by decide +kernel, by decide +kernel, by decide +kernel⟩
theorem witness_maskedWait_unset :
    RunsTo (fun m => m.nextEvent ≠ .reset) (maskedWait 1 false) 0 (after (maskedWait 1 false)) ∧
      (maskedWait 1 false).msFlag = false :=
  ⟨runs_more (.here _) (by decide +kernel) (by decide +kernel) (by decide +kernel), by decide +kernel⟩

/-- V-PLAY-3, and the highest frequency of V-PLAY-7; a duration of 0 and one of 2 are both admitted. -/
theorem witness_playAccepted :
    phaseStep State.reset.cfg 900 ≤ State.reset.cfg.stepMax ∧ phaseStep State.reset.cfg 1300 ≤ State.reset.cfg.stepMax ∧
      phaseStep State.reset.cfg 31999 = State.reset.cfg.stepMax ∧ phaseStep State.reset.cfg 0 ≤ State.reset.cfg.stepMax := by
  decide +kernel
/-- V-PLAY-5 and V-PLAY-6. -/
theorem witness_playOutOfRange :
    State.reset.cfg.stepMax < phaseStep State.reset.cfg 32000 ∧
      ((40000 : Half) ≠ 0 ∧ State.reset.cfg.stepMax < phaseStep State.reset.cfg 40000) := by decide +kernel
theorem witness_lastPoll :
    [Seq.playWait, .sleepWait, .gkDebounce].all (fun q =>
      (waiting q 1 0 true).seq == q && (waiting q 1 0 true).msFlag && (waiting q 1 0 true).n == 1 &&
        (waiting q 1 0 true).seq.isWait) = true := by decide +kernel
theorem witness_poll :
    (waiting .sleepWait 2 0 true).msFlag = true ∧ (waiting .sleepWait 2 0 true).n ≠ 1 ∧
      (waiting .sleepWait 1 0 false).msFlag = false ∧ (waiting .sleepWait 1 0 false).seq.isWait = true := by decide +kernel
theorem witness_busy :
    (offer .seqTurn (waiting .sleepWait 1 0 true)).seq ≠ .idle ∧ (offer .seqTurn (waiting .sleepWait 1 0 true)).nextEvent ≠ .reset ∧
      step (offer .seqTurn (waiting .sleepWait 1 0 true)) = .next (move .seqTurn (waiting .sleepWait 1 0 true)) ∧
      (move .seqTurn (waiting .sleepWait 1 0 true)).seq = .idle :=
  ⟨by decide +kernel, by decide +kernel, step_after (by decide +kernel), by decide +kernel⟩
theorem witness_playCompletes :
    (offer .seqTurn (waiting .playWait 1 31 true)).Inv ∧
      step (offer .seqTurn (waiting .playWait 1 31 true)) = .next (move .seqTurn (waiting .playWait 1 31 true)) :=
  ⟨by constructor <;> decide +kernel, step_after (by decide +kernel)⟩

/-- V-SLP-5's wait: one tick step, then the poll step. -/
def shortWait (m : Half) (g : Bool) (moves : List Event) : State := { waiting .sleepWait m 31 g with inputs := moves }

theorem inWait_of {s : State} (h : (s.seq.isWait && s.nextEvent != .reset) = true) : s.inWait := by
  simpa [State.inWait] using h

theorem witness_waitLength_clear :
    (shortWait 1 false [.tick, .seqTurn]).Inv ∧
      RunsTo State.inWait (shortWait 1 false [.tick, .seqTurn]) 1 (after (after (shortWait 1 false [.tick, .seqTurn]))) ∧
      (after (after (shortWait 1 false [.tick, .seqTurn]))).seq.isWait = false ∧
      raiseTick 32 31 1 = 1 :=
  ⟨by constructor <;> decide +kernel,
    runs_more (runs_more (.here _) (inWait_of (by decide +kernel)) (by decide +kernel) (by decide +kernel : 1 = _))
      (inWait_of (by decide +kernel)) (by decide +kernel) (by decide +kernel),
    by decide +kernel, by decide +kernel⟩
/-- A stale flag: a wait of one millisecond ends after no tick step. -/
theorem witness_waitLength_set :
    (shortWait 1 true [.seqTurn]).Inv ∧
      RunsTo State.inWait (shortWait 1 true [.seqTurn]) 0 (after (shortWait 1 true [.seqTurn])) ∧
      (after (shortWait 1 true [.seqTurn])).seq.isWait = false :=
  ⟨by constructor <;> decide +kernel, runs_more (.here _) (inWait_of (by decide +kernel)) (by decide +kernel)
    (by decide +kernel), by decide +kernel⟩
/-- A wait of two milliseconds on a stale flag, not over after its first poll step; and one on a clear flag. -/
theorem witness_waitEnds :
    RunsTo State.inWait (shortWait 2 true [.seqTurn]) 0 (after (shortWait 2 true [.seqTurn])) ∧
      (after (shortWait 2 true [.seqTurn])).seq.isWait = true ∧ (shortWait 2 true [.seqTurn]).Inv ∧
      RunsTo State.inWait (shortWait 1 false [.tick]) 1 (after (shortWait 1 false [.tick])) ∧
      (after (shortWait 1 false [.tick])).seq.isWait = true :=
  ⟨runs_more (.here _) (inWait_of (by decide +kernel)) (by decide +kernel) (by decide +kernel), by decide +kernel,
    by constructor <;> decide +kernel,
    runs_more (.here _) (inWait_of (by decide +kernel)) (by decide +kernel) (by decide +kernel), by decide +kernel⟩
theorem witness_phaseStep : (900 : Half).toNat ≤ (1300 : Half).toNat ∧ representable Config.ref 1300 = true := by
  decide +kernel
theorem witness_noCommandWhileBusy :
    let s := offer (.command 0x0400000000000000) (waiting .sleepWait 1 0 false)
    s.nextEvent = .command 0x0400000000000000 ∧ s.seq ≠ .idle := by decide +kernel
theorem witness_transitions :
    step (offer .reset toned) = .next (move .reset toned) ∧ (offer .reset toned).nextEvent = .reset ∧
      step (offer .seqTurn toned) = .next (move .seqTurn toned) ∧ (offer .seqTurn toned).nextEvent ≠ .reset :=
  ⟨step_after (by decide +kernel), by decide +kernel, step_after (by decide +kernel), by decide +kernel⟩
theorem witness_toneLevelTrace :
    (2 : Half) ≠ 0 ∧ exec (.play 2 900 1300) State.reset = .next (reached State.reset (exec (.play 2 900 1300) State.reset)) ∧
      (reached State.reset (exec (.play 2 900 1300) State.reset)).stepA = 922 :=
  ⟨by decide, next_of (by decide +kernel), by decide +kernel⟩
theorem witness_conversion :
    (offer (.command 0x0300000000000000) (clockAt 10 false)).Inv ∧
      step (offer (.command 0x0300000000000000) (clockAt 10 false)) =
        .next (present 0x0300000000000000 (clockAt 10 false)) ∧
      (present 0x0300000000000000 (clockAt 10 false)).adcStartOut = true ∧
      (decoding .gkConv1 true 0 0).adcBusy = true ∧ State.reset.adcBusy = false :=
  ⟨by constructor <;> decide +kernel, step_after (by decide +kernel), by decide +kernel, by decide +kernel,
    by decide +kernel⟩
theorem witness_firstConversion :
    (decoding .gkConv1 true 0 0).adcBusy = true ∧ (decoding .gkConv1 false 0 90).adcBusy = false ∧
      (decoding .gkConv1 false 0 90).cfg.debounceMs ≠ 0 ∧ quick.cfg.debounceMs = 0 ∧
      ({ quick with seq := .gkConv1 } : State).adcBusy = false := by decide +kernel
theorem witness_debounce :
    (offer (.adcDone 7) (waiting .gkDebounce 1 31 true)).Inv ∧
      step (offer (.adcDone 7) (waiting .gkDebounce 1 31 true)) = .next (move (.adcDone 7) (waiting .gkDebounce 1 31 true)) ∧
      (offer (.adcDone 7) (waiting .gkDebounce 1 31 true)).nextEvent ≠ .reset :=
  ⟨by constructor <;> decide +kernel, step_after (by decide +kernel), by decide +kernel⟩
theorem witness_secondConversion :
    (decoding .gkConv2 true 90 0).adcBusy = true ∧ (decoding .gkConv2 false 90 91).s1 ≠ (decoding .gkConv2 false 90 91).adcData ∧
      (decoding .gkConv2 false 90 90).s1 = (decoding .gkConv2 false 90 90).adcData := by decide +kernel
/-- Each clause at the edge of its range: 7 below the floor, 8 and 26 in the first band, 255 above the last. -/
theorem witness_classify :
    (7 : Byte).toNat < Config.ref.adcFloor.toNat ∧
      (∃ b ∈ Config.ref.bands, b.lo.toNat ≤ (8 : Byte).toNat ∧ (26 : Byte).toNat ≤ b.hi.toNat) ∧
      (∀ b ∈ Config.ref.bands, (255 : Byte).toNat < b.lo.toNat ∨ b.hi.toNat < (255 : Byte).toNat) := by decide +kernel
theorem witness_getkeyLeaves :
    (offer (.adcDone 90) (decoding .gkConv1 true 0 0)).Inv ∧
      step (offer (.adcDone 90) (decoding .gkConv1 true 0 0)) = .next (move (.adcDone 90) (decoding .gkConv1 true 0 0)) ∧
      (offer (.adcDone 90) (decoding .gkConv1 true 0 0)).nextEvent ≠ .tick ∧
      (offer (.adcDone 90) (decoding .gkConv1 true 0 0)).nextEvent ≠ .reset :=
  ⟨by constructor <;> decide +kernel, step_after (by decide +kernel), by decide +kernel, by decide +kernel⟩

/-- A GETKEY under the small configuration, just accepted, with both its conversions to come. -/
def stableKey : State :=
  reached quick (exec .getkey { quick with inputs := [.adcDone 90, .seqTurn, .adcDone 90, .seqTurn] })

theorem witness_stableReading :
    exec .getkey { quick with inputs := [.adcDone 90, .seqTurn, .adcDone 90, .seqTurn] } = .next stableKey ∧
      RunsTo (State.inGetkey 90) stableKey 0 (after (after (after (after stableKey)))) ∧
      (after (after (after stableKey))).seq = .gkConv2 ∧ (after (after (after stableKey))).adcBusy = false ∧
      (after (after (after (after stableKey)))).seq = .idle := by
  refine ⟨rfl, ?_, by decide +kernel, by decide +kernel, by decide +kernel⟩
  refine runs_more (T := 0) (runs_more (T := 0) (runs_more (T := 0) (runs_more (T := 0) (.here _) ?_ ?_ ?_) ?_ ?_ ?_)
    ?_ ?_ ?_) ?_ ?_ ?_
  all_goals
    first
    | decide +kernel
    | exact ⟨by decide +kernel, by decide +kernel, fun x h => (Event.adcDone.inj (show Event.adcDone 90 = .adcDone x from h)).symm⟩
    | exact ⟨by decide +kernel, by decide +kernel, fun x h => nomatch (show Event.seqTurn = .adcDone x from h)⟩

theorem witness_tickStep :
    toned.outEn = true ∧ toned.phaseA < toned.cfg.tls ∧ toned.phaseB < toned.cfg.tls ∧
      toned.stepA ≤ toned.cfg.stepMax ∧ toned.stepB ≤ toned.cfg.stepMax ∧ State.reset.outEn = false := by decide +kernel
/-- V-TICK-5 and V-TICK-3: a sum of exactly TLS, and steps of 0. -/
theorem witness_advance :
    ({ toned with phaseA := 32767, stepA := 1 } : State).phaseA + 1 = toned.cfg.tls ∧
      ({ toned with stepA := 0, stepB := 0 } : State).stepA = 0 ∧ (255 : Byte).toNat + (1 : Byte).toNat = 2 * Config.ref.mid.toNat := by
  decide +kernel
theorem witness_millisecond :
    (clockAt 31 false).tickCnt + 1 = (clockAt 31 false).cfg.ticksPerMs ∧
      (clockAt 30 false).tickCnt + 1 ≠ (clockAt 30 false).cfg.ticksPerMs ∧ Instr.stat ≠ .tunmask ∧
      isNext (exec .stat (clockAt 30 false)) = true := by decide +kernel
theorem witness_longPressCountdown :
    State.reset.lpArmed = false ∧ (armedAt 1 false).lpArmed = true ∧
      (armedAt 1 false).tickCnt + 1 = (armedAt 1 false).cfg.ticksPerMs ∧ (armedAt 1 false).lpCnt = 1 ∧
      (armedAt 2 false).lpCnt ≠ 1 := by decide +kernel
theorem witness_tickOwnership :
    (offer .tick toned).nextEvent = .tick ∧ (offer .tick toned).pollsFirst = false ∧
      isNext (step (offer .tick toned)) = true ∧ (offer .tick State.reset).outEn = false := by decide +kernel
theorem witness_sequencerOwnership :
    step (offer .seqTurn toned) = .next (move .seqTurn toned) ∧ (offer .seqTurn toned).nextEvent = .seqTurn ∧
      (offer (.command 0x0400000000000000) State.reset).nextEvent = .command 0x0400000000000000 ∧
      decode 0x0400000000000000 ≠ .instr .tunmask :=
  ⟨step_after (by decide +kernel), by decide +kernel, by decide +kernel, by decide⟩
/-- The writes the ownership table allows: a poll step, ARM, LPTAKE, and a PLAY over running phases. -/
theorem witness_sequencerWrites :
    let p := { toned with msFlag := true }
    (move .seqTurn p).msFlag = false ∧ p.seq.isWait = true ∧
      (present 0x0400000000000000 (armedAt 500 true)).lpCnt = (armedAt 500 true).cfg.longpressTime ∧
      (present 0x0600000000000000 (armedAt 500 true)).lpFlag = false ∧
      (present 0x0100020384051400 { State.reset with phaseA := 9, phaseB := 8 }).phaseA = 0 := by decide +kernel
theorem witness_adcOwnership :
    (offer (.adcDone 90) (decoding .gkConv1 true 0 0)).nextEvent = .adcDone 90 ∧
      isNext (step (offer (.adcDone 90) (decoding .gkConv1 true 0 0))) = true ∧
      isNext (step (offer (.adcDone 90) State.reset)) = true := by decide +kernel
theorem witness_encoding :
    decode 0x0200220000000000 = .instr (.sleep 34) ∧ matchesRow (.sleep 0) 0x0200220000000000 = true := by decide
theorem witness_illegal : State.reset.seq = .idle ∧ ∀ i, matchesRow i 0x0A00000000000000 = false :=
  ⟨rfl, fun i => by cases i <;> simp [matchesRow, rowMask, rowMatch]⟩
theorem witness_stepRuns :
    (offer (.command 0x0400000000000000) State.reset).inputs = [.command 0x0400000000000000] ∧
      State.reset.seq = .idle ∧ decode 0x0400000000000000 = .instr .arm := by decide +kernel
theorem witness_stepTakes :
    [Event.tick, .adcDone 1, .seqTurn, .takeResponse].all (fun e => !(offer e State.reset).pollsFirst) = true ∧
      State.reset.inputs = [] ∧ State.reset.pollsFirst = false := by decide +kernel
theorem witness_pollFirst :
    let s := offer .tick (waiting .playWait 1 31 true)
    s.nextEvent = .tick ∧ s.seq.isWait = true ∧ s.msFlag = true ∧ s.tmask = false ∧
      s.tickCnt + 1 = s.cfg.ticksPerMs := by decide +kernel
theorem witness_stepKeeps :
    (offer .tick (clockAt 10 false)).Inv ∧ step (offer .tick (clockAt 10 false)) = .next (move .tick (clockAt 10 false)) :=
  ⟨by constructor <;> decide +kernel, step_after (by decide +kernel)⟩
theorem witness_resetEvent : (offer .reset toned).nextEvent = .reset := by decide +kernel

/-! ### Infinite runs: a few moves, then tick events for ever -/

/-- The listed moves, then tick events. -/
def moves (l : List Event) (k : Nat) : Event := (l[k]?).getD .tick

/-- The states of the run on these moves. -/
def trace (l : List Event) (s : State) : Nat → State
  | 0 => s
  | k + 1 => reached (trace l s k) ((trace l s k).take (moves l k))

/-- In IDLE with no conversion running a tick event is taken, and leaves both so. -/
theorem tick_idle {s : State} (hq : s.seq = .idle) (hb : s.adcBusy = false) :
    isNext (s.take .tick) = true ∧ (reached s (s.take .tick)).seq = .idle ∧
      (reached s (s.take .tick)).adcBusy = false := by
  rw [State.take_tick (by simp [State.pollsFirst, hq, Seq.isWait])]
  simp [isNext, reached, hq, hb]

variable {l : List Event} {s : State}

theorem trace_idle (h : (trace l s l.length).seq = .idle ∧ (trace l s l.length).adcBusy = false) (j : Nat) :
    (trace l s (l.length + j)).seq = .idle ∧ (trace l s (l.length + j)).adcBusy = false := by
  induction j with
  | zero => exact h
  | succ j ih =>
    have hm : moves l (l.length + j) = .tick := by simp [moves]
    have ht := (tick_idle ih.1 ih.2).2
    rwa [← hm] at ht

/-- Moves that are taken one by one, end in IDLE with no conversion running, and leave no conversion step out, give a run
under the progress guarantees. -/
theorem fair_trace (hnext : ∀ k < l.length, isNext ((trace l s k).take (moves l k)) = true)
    (hend : (trace l s l.length).seq = .idle ∧ (trace l s l.length).adcBusy = false)
    (hseq : ∀ k < l.length, ((trace l s k).seq = .gkConv1 ∨ (trace l s k).seq = .gkConv2) →
      ∃ j < l.length, k ≤ j ∧ moves l j = .seqTurn) :
    IsRun (trace l s) (moves l) ∧ Fair (trace l s) (moves l) := by
  have hm : ∀ k, moves l (l.length + k) = .tick := fun k => by simp [moves]
  have hlater : ∀ {k}, ¬k < l.length → ∃ j, k = l.length + j := fun {k} h => ⟨k - l.length, by omega⟩
  refine ⟨fun k => ?_, ⟨fun k => ⟨l.length + k, by omega, hm k, ?_⟩, fun k _ => ⟨l.length + k, by omega, (trace_idle hend k).2⟩,
    fun k hq _ => ?_⟩⟩
  · by_cases h : k < l.length
    · exact next_of (hnext k h)
    · obtain ⟨j, rfl⟩ := hlater h
      have ht := trace_idle hend j
      exact next_of (hm j ▸ (tick_idle ht.1 ht.2).1)
  · simp [State.pollsFirst, (trace_idle hend k).1, Seq.isWait]
  · by_cases h : k < l.length
    · obtain ⟨j, -, hj, he⟩ := hseq k h hq
      exact ⟨j, hj, .inl he⟩
    · obtain ⟨j, rfl⟩ := hlater h
      simp [(trace_idle hend j).1] at hq

/-- A move of the list, or a tick event. -/
theorem moves_cases (k : Nat) : moves l k ∈ l ∨ moves l k = .tick := by
  unfold moves
  cases h : l[k]? with
  | none => exact .inr rfl
  | some e => exact .inl (List.mem_of_getElem? h)

/-- Every move meets what a tick event and the listed moves meet. -/
theorem moves_all {P : Event → Prop} (ht : P .tick) (h : ∀ e ∈ l, P e) (k : Nat) : P (moves l k) := by
  rcases moves_cases (l := l) k with hk | hk
  · exact h _ hk
  · exact hk ▸ ht

/-- A wait of one millisecond in the state `q`, under the small configuration. -/
def quickWait (q : Seq) : State := { quick with seq := q, n := 1 }

theorem witness_fairWait :
    let l := [Event.tick, .seqTurn]
    (IsRun (trace l (quickWait .sleepWait)) (moves l) ∧ Fair (trace l (quickWait .sleepWait)) (moves l)) ∧
      (∀ k, moves l k ≠ .reset) ∧ (trace l (quickWait .sleepWait) 0).Inv ∧
      (trace l (quickWait .sleepWait) 0).seq.isWait = true ∧ (trace l (quickWait .sleepWait) 0).tmask = false :=
  ⟨fair_trace (by decide +kernel) (by decide +kernel) (by decide +kernel),
    moves_all (P := (· ≠ .reset)) (by decide) (by decide),
    by constructor <;> decide +kernel, by decide +kernel, by decide +kernel⟩

/-- The moves of a GETKEY with the stable reading 90 and no debounce wait. -/
def keyMoves : List Event := [.adcDone 90, .seqTurn, .adcDone 90, .seqTurn]

/-- The same, after one wait of a millisecond, which stands for the debounce. -/
theorem witness_fairDebounce :
    let l := [Event.tick, .seqTurn, .adcDone 0, .seqTurn]
    (IsRun (trace l (quickWait .gkDebounce)) (moves l) ∧ Fair (trace l (quickWait .gkDebounce)) (moves l)) ∧
      (∀ k, moves l k ≠ .reset) ∧ (quickWait .gkDebounce).Inv ∧ (quickWait .gkDebounce).seq.isWait = true ∧
      (quickWait .gkDebounce).tmask = false :=
  ⟨fair_trace (by decide +kernel) (by decide +kernel) (by decide +kernel),
    moves_all (P := (· ≠ .reset)) (by decide) (by decide),
    by constructor <;> decide +kernel, by decide +kernel, by decide +kernel⟩

theorem witness_fairGetkey :
    let s := { quick with seq := .gkConv1, adcBusy := true }
    (IsRun (trace keyMoves s) (moves keyMoves) ∧ Fair (trace keyMoves s) (moves keyMoves)) ∧
      (∀ k, moves keyMoves k ≠ .reset) ∧ (∀ k x, moves keyMoves k = .adcDone x → x = 90) ∧ s.Inv ∧
      s.seq = .gkConv1 ∧ s.adcBusy = true ∧ s.tmask = false :=
  ⟨fair_trace (by decide +kernel) (by decide +kernel) (by decide +kernel),
    moves_all (P := (· ≠ .reset)) (by decide) (by decide),
    fun k x => moves_all (P := fun e => e = .adcDone x → x = 90) (by simp) (by rintro e he rfl; simpa [keyMoves] using he) k,
    by constructor <;> decide +kernel, by decide +kernel, by decide +kernel, by decide +kernel⟩

/-! ### The host contract -/

/-- Mode codes of the tests; the spec leaves them open. -/
def codes : ModeCodes := { mf := 1, dtmf := 2, redbox := 3, greenbox := 4, pulse := 5 }

/-- A store whose chunk of key 7 begins with a byte that codes no mode, and whose chunk of key 1 is erased. -/
def corrupt : Store := { cells := [(249, 9)] }

/-- S9 of spec 95 section 2: the chunk of key 7 lies at 249 and holds the mode, the keys and 0xFF. -/
theorem test_chunk :
    ((Store.erased.storeChunk codes .mf 7 { keys := [1, 2, 3] }).map fun m => m.cells) =
      some [(249, 1), (250, 1), (251, 2), (252, 3)] := by decide +kernel
theorem witness_chunk :
    Store.erased.wf = true ∧ codes.wf = true ∧ 1 ≤ (12 : Byte).toNat ∧ (12 : Byte).toNat ≤ 12 ∧
      (∀ k ∈ ({ keys := List.replicate 40 13 } : Ring).keys, k ≠ eraseSentinel) ∧
      ({ keys := List.replicate 40 13 } : Ring).keys.length ≤ 40 := by decide +kernel
theorem witness_invalidChunk :
    corrupt.wf = true ∧ corrupt.read (3 + ((7 : Byte).toNat - 1) * 41) = some 9 ∧ codes.modeOf 9 = none ∧
      corrupt.read (3 + ((1 : Byte).toNat - 1) * 41) = some eraseSentinel := by decide +kernel

/-! ### The host at work -/

/-- A dispatch table with only what the spec fixes, beside parameters of the tests' own. -/
def table : ToneTable where
  entries :=
    ([ToneMode.mf, .dtmf, .redbox, .greenbox].map fun m => { mode := m, key := 13, shape := .single (.fixed 10) 850 0 }) ++
    [{ mode := .mf, key := 5, shape := .single .toneLength 900 1300 },
      { mode := .pulse, key := 11, shape := .train 10 (.fixed 6) 2600 0 4 }] ++
    ([1, 2, 3, 4, 5, 6, 7, 8, 9].map fun n =>
      { mode := .pulse, key := BitVec.ofNat 8 n, shape := .train n (.fixed 6) 2600 0 4 })
  pauses := { mf := 5, dtmf := 5, redbox := 5, greenbox := 5, pulse := 5 }

/-- Parameters of a host for the tests; the spec leaves them open. -/
def host : HostParams where
  codes := codes
  table := table
  lengths := { fastMs := 75, slowMs := 150, fastByte := 0, slowByte := 1 }
  overflow := .rejectWhenFull
  seizeLiveInPlayback := false
  holdOrder := .releaseFirst
  startupKeys := [(1, .selectMode .dtmf), (11, .toggleLength)]
  modeChirp := [.play 1 500 0]
  lengthChirp := [.play 1 600 0]
  upChirp := [.play 1 700 0]
  downChirp := [.play 1 800 0]
  storeBefore := [{ durationMs := 1, freqA := 900, freqB := 0 }]
  storeAfter := [{ durationMs := 2, freqA := 950, freqB := 0 }]
  defaultBefore := { durationMs := 3, freqA := 1000, freqB := 0 }
  defaultAfter := [{ durationMs := 4, freqA := 1050, freqB := 0 }]

/-- The loop of the tests at power-on, over an erased store. -/
def booted : Loop := Loop.boot host Store.erased

theorem test_host_wf :
    host.wf Config.ref = true ∧
      ({ host with lengths := { host.lengths with slowByte := 0xFF } } : HostParams).wf Config.ref = false ∧
      ({ host with lengths := { host.lengths with slowMs := 75 } } : HostParams).wf Config.ref = false ∧
      ({ host with startupKeys := [(0, .selectMode .mf)] } : HostParams).wf Config.ref = false := by decide +kernel
/-- A frequency the block cannot represent (spec 92, open parameters). -/
theorem test_host_representable :
    (ToneTable.wf Config.ref
      { table with entries := { mode := .redbox, key := 1, shape := .single (.fixed 1) 65535 0 } :: table.entries }) =
      false := by decide +kernel
/-- S6 of spec 95 section 2: a header of (0xFF, 0xFF) gives MF and the short length, with both chirps. -/
theorem test_host_fallback :
    let l := booted.startup host
    booted.headerByte modeAddress = eraseSentinel ∧ booted.headerByte lengthAddress = eraseSentinel ∧
      l.mode = .mf ∧ l.toneLength = 75 ∧
      l.todo = [.issue (.play 1 500 0), .issue (.play 1 600 0), .issue .getkey] := by decide +kernel
/-- The host's actions done one after another, at most `fuel` of them, with the commands it issues. -/
def works : Nat → Loop → Loop × List Instr
  | 0, l => (l, [])
  | fuel + 1, l =>
    match l.todo with
    | [] => (l, [])
    | .issue i :: rest => ((works fuel { l with todo := rest }).1, i :: (works fuel { l with todo := rest }).2)
    | a :: rest => works fuel ({ l with todo := rest }.perform host a)

/-- R180(e) with two keys: the chunk of key 7, and each of three counts and two removes in its own bracket (R167, R170). -/
theorem test_host_store :
    let done := works 40 { booted with original := 7, ring := { keys := [1, 2] }, todo := host.storeActions }
    done.1.store.cells = [(249, 1), (250, 1), (251, 2)] ∧ done.1.ring = Ring.init ∧ done.1.justWrote = true ∧
      done.1.chunk = chunkImage 1 [1, 2] ∧
      done.2 = [.play 1 900 0] ++ (List.replicate 5 [Instr.tmask, .tunmask]).flatten ++ [.play 2 950 0] := by
  decide +kernel
/-- R167: the ring buffer is initialized at boot, between TMASK and TUNMASK. -/
theorem test_host_boot : booted.todo = [.issue .tmask, .initRing, .issue .tunmask] := by decide
/-- R174: a tone first, then the release; at the end the byte is persisted and tones sound. -/
theorem test_host_default :
    ({ booted with phase := .startupKey, answer := 13 }.decide host).todo =
        [.issue (.play 3 1000 0), .issue .getkey] ∧
      (booted.setDefault host 1).todo = [.issue (.play 4 1050 0), .issue .getkey] ∧
      (booted.setDefault host 1).store.cells = [(1, 2)] := by decide +kernel
/-- A loop in the hold of key 7, in this phase, with this answer. -/
def holding (q : Phase) (held answer : Byte) : Loop :=
  { booted with phase := q, original := 7, heldKey := held, answer := answer }

/-- P3b of spec 95, rows 49 to 51: released, and the flag still taken before the DISARM; the listed loop disarms at once. -/
theorem test_host_hold :
    let p := { host with holdOrder := .flagFirst }
    ((holding .hold 7 0).decide p).todo = [.issue .lptake] ∧ ((holding .hold 7 0).decide p).heldKey = 0 ∧
      ((holding .holdFlag 0 0).decide p).todo = [.issue .disarm] ∧
      ((holding .hold 7 0).decide host).todo = [.issue .disarm] ∧
      ((holding .holdFlag 7 0).decide host).todo = [.issue .getkey] := by decide +kernel
/-- R177: the flag fires in either order, also on the key's release where it is tested first. -/
theorem test_host_longPress :
    ((holding .holdFlag 7 1).decide host).phase = .rest ∧
      ((holding .holdFlag 0 1).decide { host with holdOrder := .flagFirst }).phase = .rest ∧
      (({ holding .dispatched 7 0 with heldKey := 3 }).decide { host with holdOrder := .flagBeforeKey }).todo =
        [.issue .arm, .issue .lptake] := by decide +kernel
/-- R170, R174: no store and no new default without a tone that sounds. -/
theorem test_host_confirms :
    ({ host with storeBefore := [] } : HostParams).wf Config.ref = false ∧
      ({ host with storeAfter := [{ durationMs := 0, freqA := 900, freqB := 0 }] } : HostParams).wf Config.ref = false ∧
      ({ host with defaultBefore := { durationMs := 3, freqA := 0, freqB := 0 } } : HostParams).wf Config.ref = false ∧
      ({ host with defaultAfter := [{ durationMs := 3, freqA := 65535, freqB := 0 }] } : HostParams).wf Config.ref =
        false := by decide +kernel

/-- The product with a GETKEY in progress, its call not returned. -/
def calling : Product :=
  { block := { decoding .gkConv1 true 0 0 with adcStartOut := true }, loop := { booted with awaiting := true } }

/-- No response, no return; with one, VAL is taken (R160). -/
theorem test_host_waits :
    calling.loop.awaiting = true ∧ calling.block.respValid = false ∧ calling.hostMove host = .next calling ∧
      ({ calling with block := { State.reset with respValid := true, resp := 0x0005 } } : Product).hostMove host =
        .next { block := { State.reset with respValid := true, resp := 0x0005 }
                loop := { booted with awaiting := false, answer := 5 } } :=
  ⟨rfl, rfl, rfl, rfl⟩
/-- RESET inside a call: block and loop start again (R230, log 29). -/
theorem test_host_reset : calling.blockMove host .reset = .next { block := State.reset, loop := booted } :=
  rfl
theorem witness_hostIssues :
    let l := { booted with todo := [.issue .arm] }
    l.awaiting = false ∧ State.reset.seq = .idle ∧ isNext (State.reset.take (.command (encode .arm))) = true ∧
      isNext (State.reset.take .reset) = true := by decide +kernel

end Sys2Proof.Tests
end

section
/-! The waveform table (spec 20_memory R41, R43): what `waveWf` and `waveRead` say entry by entry. -/

namespace Sys2Proof.Machine

open Sys2Proof

section TableFacts

variable (c : Config)

/-- Conditions (b) and (c) of R41, as `waveWf` checks them. -/
theorem wave_head_and_sums :
    c.wave.head? = some c.mid ∧
      ∀ n ∈ List.zipWith (fun x y : Byte => x.toNat + y.toNat) c.wave c.waveOpposite, n = 2 * c.mid.toNat := by
  obtain ⟨-, -, -, -, hwave, -⟩ := c.constraints
  simp only [Params.waveWf, Bool.and_eq_true, beq_iff_eq, List.all_eq_true] at hwave
  exact ⟨hwave.1.2, hwave.2⟩

theorem waveOpposite_eq_rotate : c.waveOpposite = c.wave.rotate 128 :=
  (List.rotate_eq_drop_append_take (by simp [c.wave_length])).symm

theorem waveOpposite_length : c.waveOpposite.length = 256 := by
  rw [waveOpposite_eq_rotate, List.length_rotate, c.wave_length]

/-- A read inside the table never meets the free value (R43). -/
theorem waveRead_eq_getElem {i : Nat} (hi : i < c.wave.length) : waveRead c i = c.wave[i] := by
  simp [waveRead, hi]

theorem waveRead_zero : waveRead c 0 = c.mid := by
  have hhead := (wave_head_and_sums c).1
  rw [List.head?_eq_getElem?] at hhead
  simp [waveRead, hhead]

/-- A read half a cycle on is a read of the rotated table. -/
theorem waveRead_opposite {i : Nat} (hi : i < c.waveOpposite.length) :
    waveRead c ((i + 128) % 256) = c.waveOpposite[i] := by
  rw [waveRead_eq_getElem c (by rw [c.wave_length]; omega)]
  simp only [waveOpposite_eq_rotate, List.getElem_rotate, c.wave_length]

/-- Condition (c) of R41 through the table read: the two entries are one element of the list of sums `waveWf` checks. -/
theorem waveRead_add_opposite {i : Nat} (hi : i < 256) :
    (waveRead c i).toNat + (waveRead c ((i + 128) % 256)).toNat = 2 * c.mid.toNat := by
  have hw : i < c.wave.length := by rwa [c.wave_length]
  have ho : i < c.waveOpposite.length := by rwa [waveOpposite_length]
  rw [waveRead_eq_getElem c hw, waveRead_opposite c ho]
  have hz : i < (List.zipWith (fun x y : Byte => x.toNat + y.toNat) c.wave c.waveOpposite).length := by
    rw [List.length_zipWith]; exact lt_min hw ho
  exact (wave_head_and_sums c).2 _ (List.mem_of_getElem (h := hz) List.getElem_zipWith)

end TableFacts

/-- Settles O38: length, first entry and symmetry, each from the well-formedness every configuration carries. -/
theorem waveIsSymmetric : Obligations.WaveIsSymmetric := by
  unfold Obligations.WaveIsSymmetric
  intro c
  exact ⟨c.wave_length, waveRead_zero c, fun _ hi => waveRead_add_opposite c hi⟩

end Sys2Proof.Machine
end

section
/-! The oscillator part of the tick step (spec 40_tick_step R81 to R84): samples, advance, the silent output. -/

namespace Sys2Proof.Machine

/-! ### Samples and their mean (R81, R82) -/

theorem mixSamples_toNat (x y : Byte) : (mixSamples x y).toNat = (x.toNat + y.toNat) / 2 := by
  have hx := x.isLt
  have hy := y.isLt
  rw [mixSamples, BitVec.toNat_ofNat, Nat.mod_eq_of_lt (by omega)]

theorem mixSamples_self (x : Byte) : mixSamples x x = x :=
  BitVec.eq_of_toNat_eq (by rw [mixSamples_toNat]; omega)

/-- A phase below TLS reads an entry of the table (R43). -/
theorem wave_getElem?_waveIndex (c : Config) {p : Nat} (h : p < c.tls) :
    c.wave[waveIndex c p]? = some (waveRead c (waveIndex c p)) := by
  have hi : waveIndex c p < c.wave.length := by rw [c.wave_length]; exact c.index_lt h
  rw [waveRead_eq_getElem c hi, List.getElem?_eq_getElem hi]

/-- Both phases at 0 read entry 0 of the table, which is MID. -/
theorem State.mixedLevel_phase_zero {s : State} (hA : s.phaseA = 0) (hB : s.phaseB = 0) :
    s.mixedLevel = s.cfg.mid := by
  simp [State.mixedLevel, waveIndex, hA, hB, waveRead_zero, mixSamples_self]

/-- Settles O28: the samples are the table reads at the phases before the step, and LEVEL is their mean. -/
theorem tickSamplesBeforeAdvance : Obligations.TickSamplesBeforeAdvance := by
  unfold Obligations.TickSamplesBeforeAdvance
  intro s hon hA hB
  have hlevel : s.tickStep.level = s.mixedLevel := by simp [State.tickStep_level, hon]
  refine ⟨_, _, wave_getElem?_waveIndex s.cfg hA, wave_getElem?_waveIndex s.cfg hB, ?_, ?_⟩
  · rw [hlevel]
    exact mixSamples_toNat _ _
  · intro hA0 hB0
    rw [hlevel, State.mixedLevel_phase_zero hA0 hB0]

/-! ### The advance (R83) -/

/-- W_PHASE is one bit more than a phase below TLS needs. -/
theorem two_pow_wPhase (c : Config) : 2 ^ c.wPhase = 2 * c.tls := by
  rw [c.tls_eq, Params.wPhase, pow_add]
  ring

theorem phase_add_step_lt (c : Config) {p s : Nat} (hp : p < c.tls) (hs : s ≤ c.stepMax) : p + s < 2 ^ c.wPhase := by
  rw [two_pow_wPhase]
  simp only [Params.stepMax] at hs
  omega

theorem advance_step_zero (c : Config) {p : Nat} (hp : p < c.tls) : advance c p 0 = p := by
  simp [advance, hp]

theorem advance_sum_tls (c : Config) {p s : Nat} (h : p + s = c.tls) : advance c p s = 0 := by
  simp [advance, h]

/-- Settles O30: each phase is `advance` of itself and its step. -/
theorem phasesAdvanceAndWrap : Obligations.PhasesAdvanceAndWrap := by
  unfold Obligations.PhasesAdvanceAndWrap
  intro s hon hA hB hsA hsB
  have hphaseA : s.tickStep.phaseA = advance s.cfg s.phaseA s.stepA := by simp [State.tickStep_phaseA, hon]
  have hphaseB : s.tickStep.phaseB = advance s.cfg s.phaseB s.stepB := by simp [State.tickStep_phaseB, hon]
  rw [hphaseA, hphaseB]
  refine ⟨rfl, rfl, phase_add_step_lt s.cfg hA hsA, phase_add_step_lt s.cfg hB hsB, ?_, ?_, advance_sum_tls s.cfg,
    advance_sum_tls s.cfg, s.tickStep_stepA, s.tickStep_stepB⟩
  · intro h
    rw [h, advance_step_zero s.cfg hA]
  · intro h
    rw [h, advance_step_zero s.cfg hB]

/-! ### The silent output (R84) -/

/-- The state with this oscillator file. -/
def State.setOsc (s : State) (pA pB sA sB : Nat) : State :=
  { s with phaseA := pA, phaseB := pB, stepA := sA, stepB := sB }

section SetOsc

variable (s : State) (pA pB sA sB : Nat)

theorem State.lpPart_setOsc : (s.setOsc pA pB sA sB).lpPart = s.lpPart.setOsc pA pB sA sB := by
  simp only [State.lpPart, apply_ite (State.setOsc · pA pB sA sB)]
  rfl

/-- Parts (2) and (3) of the tick step never read the oscillators. -/
theorem State.clockPart_setOsc : (s.setOsc pA pB sA sB).clockPart = s.clockPart.setOsc pA pB sA sB := by
  simp only [State.clockPart, apply_ite (State.setOsc · pA pB sA sB), ← State.lpPart_setOsc]
  rfl

/-- While disabled, the whole tick step does not read them either. -/
theorem State.tickStep_setOsc_off (h : s.outEn = false) :
    (s.setOsc pA pB sA sB).tickStep = s.tickStep.setOsc pA pB sA sB := by
  have h' : (s.setOsc pA pB sA sB).outEn = false := h
  rw [State.tickStep, State.tickStep, State.oscPart_off s h, State.oscPart_off _ h', ← State.clockPart_setOsc]
  rfl

end SetOsc

theorem State.tickStep_sameOsc_off {s : State} (h : s.outEn = false) : SameOsc s s.tickStep := by
  simp [SameOsc, State.tickStep_phaseA, State.tickStep_phaseB, h]

/-- Settles O31: a disabled tick step pins LEVEL and commutes with any change of the oscillators; a PLAY's last poll
step is its completion, which writes OUT_EN and not LEVEL. -/
theorem disabledOutputIsSilent : Obligations.DisabledOutputIsSilent := by
  unfold Obligations.DisabledOutputIsSilent
  refine ⟨?_, fun s p q u v hoff => s.tickStep_setOsc_off p q u v hoff, ?_⟩
  · intro s hoff
    exact ⟨by simp [State.tickStep_level, hoff], State.tickStep_sameOsc_off hoff, by simp [hoff]⟩
  · intro s hseq hms hn
    have hturn : s.seqTurn = s.countDown.playComplete := by
      rw [State.seqTurn_wait (by simp [hseq, Seq.isWait]), if_pos hms, State.poll_play hseq hn]
    simp [hturn]

end Sys2Proof.Machine
end

section
/-! The millisecond clock and the long-press countdown (spec 40_tick_step R85, R86). -/

namespace Sys2Proof.Machine

/-! ### The clock along tick steps (R85) -/

@[simp] theorem tickStep_iterate_cfg (s : State) (n : Nat) : (State.tickStep^[n] s).cfg = s.cfg := by
  induction n with
  | zero => rfl
  | succ n ih => rw [Function.iterate_succ_apply', State.tickStep_cfg, ih]

theorem State.tickStep_tickCnt_mod {s : State} (h : s.tickCnt < s.cfg.ticksPerMs) :
    s.tickStep.tickCnt = (s.tickCnt + 1) % s.cfg.ticksPerMs := by
  rw [State.tickStep_tickCnt]
  split
  next hwrap => rw [hwrap, Nat.mod_self]
  next hwrap => rw [Nat.mod_eq_of_lt (by omega)]

/-- TICKCNT counts tick steps modulo K. -/
theorem tickStep_iterate_tickCnt {s : State} (h : s.tickCnt < s.cfg.ticksPerMs) (n : Nat) :
    (State.tickStep^[n] s).tickCnt = (s.tickCnt + n) % s.cfg.ticksPerMs := by
  induction n with
  | zero => exact (Nat.mod_eq_of_lt h).symm
  | succ n ih =>
    have hlt : (State.tickStep^[n] s).tickCnt < (State.tickStep^[n] s).cfg.ticksPerMs := by
      rw [ih, tickStep_iterate_cfg]
      exact Nat.mod_lt _ s.cfg.ticksPerMs_pos
    rw [Function.iterate_succ_apply', State.tickStep_tickCnt_mod hlt, ih, tickStep_iterate_cfg, Nat.mod_add_mod,
      Nat.add_assoc]

/-- Of the next K tick steps, the one that wraps is the one the counter has left to go. -/
theorem tickStep_iterate_clockWraps_iff {s : State} {j : Nat} (h : s.tickCnt < s.cfg.ticksPerMs)
    (hj : j < s.cfg.ticksPerMs) :
    (State.tickStep^[j] s).clockWraps = true ↔ j = s.cfg.ticksPerMs - 1 - s.tickCnt := by
  rw [State.clockWraps_iff, tickStep_iterate_cfg, tickStep_iterate_tickCnt h]
  rcases Nat.lt_or_ge (s.tickCnt + j) s.cfg.ticksPerMs with hlt | hge
  · rw [Nat.mod_eq_of_lt hlt]
    omega
  · rw [Nat.mod_eq_sub_mod hge, Nat.mod_eq_of_lt (by omega)]
    omega

theorem existsUnique_clockWraps {s : State} (h : s.tickCnt < s.cfg.ticksPerMs) :
    ∃! j, j < s.cfg.ticksPerMs ∧ (State.tickStep^[j] s).clockWraps = true := by
  have hj : s.cfg.ticksPerMs - 1 - s.tickCnt < s.cfg.ticksPerMs := by omega
  refine ⟨_, ⟨hj, (tickStep_iterate_clockWraps_iff h hj).2 rfl⟩, ?_⟩
  rintro j ⟨hlt, hwraps⟩
  exact (tickStep_iterate_clockWraps_iff h hlt).1 hwraps

/-! ### Commands and the clock (R85) -/

/-- No accept step but TUNMASK's, which may perform the remembered tick step, writes the clock. -/
theorem exec_sameClock {s t : State} {i : Instr} (hi : i ≠ .tunmask) (h : exec i s = .next t) : SameClock s t := by
  cases i with
  | play d a b =>
    simp only [exec, execPlay] at h
    split at h
    · split at h <;> cases h <;> exact ⟨rfl, rfl⟩
    · cases h; exact ⟨rfl, rfl⟩
  | sleep m =>
    simp only [exec, execSleep] at h
    split at h <;> cases h <;> exact ⟨rfl, rfl⟩
  | tunmask => exact absurd rfl hi
  | getkey | arm | disarm | lptake | tmask | stat => cases h; exact ⟨rfl, rfl⟩

/-- Settles O32: the counter runs modulo K, so one of any K tick steps wraps, and the accept steps frame the clock. -/
theorem millisecondClock : Obligations.MillisecondClock := by
  unfold Obligations.MillisecondClock
  refine ⟨fun s hlt => ⟨?_, ?_, existsUnique_clockWraps hlt⟩, fun s t i => exec_sameClock⟩
  · intro hwrap
    simp [State.tickStep_tickCnt, State.tickStep_msFlag, hwrap, State.clockWraps_iff]
  · intro hgo
    simp [State.tickStep_tickCnt, State.tickStep_msFlag, hgo, State.clockWraps]

/-! ### The long-press countdown (R86) -/

/-- Settles O33: LP_CNT and LP_FLAG after a tick step depend on the wrap, LP_ARMED and LP_CNT alone. -/
theorem longPressCountdown : Obligations.LongPressCountdown := by
  unfold Obligations.LongPressCountdown
  refine fun s => ⟨?_, ?_, ?_⟩
  · rintro (harm | hgo)
    · simp [State.tickStep_lpCnt, State.tickStep_lpFlag, harm]
    · simp [State.tickStep_lpCnt, State.tickStep_lpFlag, State.clockWraps, hgo]
  · intro harm hwrap
    constructor
    · intro hcnt
      simp [State.tickStep_lpCnt, State.tickStep_lpFlag, State.clockWraps, harm, hwrap, hcnt]
    · intro (hcnt : s.lpCnt ≠ 1#16)
      simp [State.tickStep_lpCnt, State.tickStep_lpFlag, State.clockWraps, harm, hwrap, hcnt]
  · intro b
    simp only [State.tickStep_lpCnt, State.tickStep_lpFlag]
    exact ⟨rfl, rfl⟩

end Sys2Proof.Machine
end

section
/-! The words and the accept steps of PLAY and SLEEP (spec 41 R101, R104, 60_exceptions R202). -/

namespace Sys2Proof.Machine

variable {s t : State}

/-! ### Responses -/

theorem State.responded_respond (s : State) (e : Err) (v : Byte) : Responded (respWord e v) (s.respond e v) :=
  ⟨rfl, rfl, rfl⟩

/-- The frame of an accept step that only responds. -/
theorem State.sameButResponse_respond (s : State) (e : Err) (v : Byte) :
    SameButResponse s (s.beginAccept.respond e v) := by
  simp [SameButResponse, SameOsc, SameOutput, SameClock, SameLongPress, SameGate, SameReadings, SameAdc, SameEnv]

/-! ### Words with a field that must be zero (spec 30_encoding R63, R64) -/

theorem decodeFields_reservedZ {f : Fields} (h : f.z ≠ 0) : decodeFields f = .illegal .reservedZ :=
  if_neg (by simpa using h)

theorem decodeFields_sleep_unused {f : Fields} (hop : f.op = 0x02) (hz : f.z = 0) (h : f.b ≠ 0 ∨ f.c ≠ 0) :
    decodeFields f = .illegal .unusedOperand := by
  have hunused : ¬(f.b = 0 ∧ f.c = 0) := by tauto
  simpa [decodeFields, requireClear, hop, hz] using hunused

/-! ### The accept steps (R101, R104) -/

/-- PLAY's writes before it looks at the duration (R101). -/
def State.toneLoaded (s : State) (d a b : Half) : State :=
  (s.beginAccept.loadTone d (phaseStep s.cfg a) (stepForB s.cfg a b)).enableOutput

section Play

variable {d a b : Half}

theorem exec_play_fits (ha : phaseStep s.cfg a ≤ s.cfg.stepMax) (hb : phaseStep s.cfg b ≤ s.cfg.stepMax) :
    exec (.play d a b) s =
      if d == 0 then .next (s.toneLoaded d a b).playComplete else .next ((s.toneLoaded d a b).await d .playWait) :=
  if_pos (by simp [representable, ha, hb])

theorem exec_play_unfit (h : s.cfg.stepMax < phaseStep s.cfg a ∨ s.cfg.stepMax < phaseStep s.cfg b) :
    exec (.play d a b) s = .next (s.beginAccept.reject .range) :=
  if_neg (by simpa [representable, imp_iff_not_or] using h)

/-- Everything PLAY's accept step can be. -/
theorem exec_play_cases (h : exec (.play d a b) s = .next t) :
    (d = 0 ∧ t = (s.toneLoaded d a b).playComplete) ∨ (d ≠ 0 ∧ t = (s.toneLoaded d a b).await d .playWait) ∨
      t = s.beginAccept.reject .range := by
  rcases le_or_gt (phaseStep s.cfg a) s.cfg.stepMax with ha | ha
  · rcases le_or_gt (phaseStep s.cfg b) s.cfg.stepMax with hb | hb
    · rw [exec_play_fits ha hb] at h
      split at h
      next hd => exact .inl ⟨by simpa using hd, (Host.Outcome.next.inj h).symm⟩
      next hd => exact .inr (.inl ⟨by simpa using hd, (Host.Outcome.next.inj h).symm⟩)
    · rw [exec_play_unfit (.inr hb)] at h
      exact .inr (.inr (Host.Outcome.next.inj h).symm)
  · rw [exec_play_unfit (.inl ha)] at h
    exact .inr (.inr (Host.Outcome.next.inj h).symm)

end Play

theorem exec_sleep_zero : exec (.sleep 0) s = .next ({ s.beginAccept with n := 0 }.respond .ok 0) := rfl

theorem exec_sleep_wait {m : Half} (h : m ≠ 0) : exec (.sleep m) s = .next (s.beginAccept.await m .sleepWait) :=
  if_neg (by simpa using h)

/-- Settles O10: where both steps fit, the loaded tone completes at once or waits; where one does not, PLAY is
rejected, which writes the response alone. -/
theorem playAccepted : Obligations.PlayAccepted := by
  unfold Obligations.PlayAccepted
  refine ⟨fun s d a b ha hb => ?_, fun s d a b h => ?_, fun f _ hz => ⟨_, decodeFields_reservedZ hz⟩⟩
  · rw [exec_play_fits ha hb]
    rcases eq_or_ne d 0#16 with rfl | hd
    · refine ⟨_, rfl, ?_⟩
      simp [State.toneLoaded, stepForB, Responded, respWord, SameClock, SameLongPress, SameGate, SameReadings, SameAdc,
        SameEnv]
    · refine ⟨_, if_neg (by simpa using hd), ?_⟩
      simp [hd, State.toneLoaded, stepForB, SameClock, SameLongPress, SameGate, SameReadings, SameAdc, SameEnv]
  · exact ⟨_, exec_play_unfit (h.imp_right And.right), State.responded_respond _ .range 0,
      State.sameButResponse_respond s .range 0⟩

end Sys2Proof.Machine
end

section
/-! The poll step in the three waiting states (spec 41 R102 to R104). -/

namespace Sys2Proof.Machine

variable {s : State}

theorem State.countDown_last (h : s.n = 1) : s.countDown = { s with msFlag := false, n := 0 } := by
  rw [State.countDown, h]
  rfl

theorem State.seqTurn_poll_more (hs : s.seq.isWait = true) (hms : s.msFlag = true) (hn : s.n ≠ 1) :
    s.seqTurn = s.countDown := by
  rw [State.seqTurn_wait hs, if_pos hms, State.poll_more hn]

theorem State.seqTurn_poll_play (hs : s.seq = .playWait) (hms : s.msFlag = true) (hn : s.n = 1) :
    s.seqTurn = { s with msFlag := false, n := 0 }.playComplete := by
  rw [State.seqTurn_wait (by rw [hs]; rfl), if_pos hms, State.poll_play hs hn, State.countDown_last hn]

theorem State.seqTurn_poll_sleep (hs : s.seq = .sleepWait) (hms : s.msFlag = true) (hn : s.n = 1) :
    s.seqTurn = { s with msFlag := false, n := 0 }.respond .ok 0 := by
  rw [State.seqTurn_wait (by rw [hs]; rfl), if_pos hms, State.poll_sleep hs hn, State.countDown_last hn]

theorem State.seqTurn_poll_debounce (hs : s.seq = .gkDebounce) (hms : s.msFlag = true) (hn : s.n = 1) :
    s.seqTurn = { s with msFlag := false, n := 0 }.secondConversion := by
  rw [State.seqTurn_wait (by rw [hs]; rfl), if_pos hms, State.poll_debounce hs hn, State.countDown_last hn]

/-- Settles O12: the accept step by its operand, the poll step by the count it finds, the words by the field not zero. -/
theorem sleepWaits : Obligations.SleepWaits := by
  unfold Obligations.SleepWaits
  refine ⟨fun s m => ?_, fun s hs hms hn => ?_, fun s hs hms hn => ?_, fun f hop h => ?_⟩
  · rcases eq_or_ne m 0#16 with rfl | hm
    · refine ⟨_, exec_sleep_zero, ?_⟩
      simp [Responded, respWord, SameOsc, SameOutput, SameClock, SameLongPress, SameGate, SameReadings, SameAdc, SameEnv]
    · refine ⟨_, exec_sleep_wait hm, ?_⟩
      simp [hm, SameOsc, SameOutput, SameClock, SameLongPress, SameGate, SameReadings, SameAdc, SameEnv]
  · rw [State.seqTurn_poll_sleep hs hms hn]
    simp [Responded, respWord, SameOsc, SameOutput, SameLongPress, SameGate, SameReadings, SameAdc, SameEnv]
  · exact State.seqTurn_poll_more (by rw [hs]; rfl) hms hn
  · by_cases hz : f.z = 0
    · exact ⟨_, decodeFields_sleep_unused hop hz (by tauto)⟩
    · exact ⟨_, decodeFields_reservedZ hz⟩

/-- Settles O13: each clause is the turn of its waiting state; the bound on N is the invariant's. -/
theorem pollStepConsumesMillisecond : Obligations.PollStepConsumesMillisecond := by
  unfold Obligations.PollStepConsumesMillisecond
  refine fun s hwait => ⟨fun hinv => hinv.wait_pos hwait, fun hms => ?_, State.seqTurn_poll_more hwait, ?_, ?_, ?_⟩
  · simp [State.seqTurn_wait hwait, hms]
  · exact fun hms hn hs => State.seqTurn_poll_play hs hms hn
  · exact fun hms hn hs => State.seqTurn_poll_sleep hs hms hn
  · exact fun hms hn hs => State.seqTurn_poll_debounce hs hms hn

end Sys2Proof.Machine
end

section
/-! OUT_EN is 1 exactly while a PLAY waits, along every step (spec 41 R102). -/

namespace Sys2Proof.Machine

variable {s t : State}

theorem State.poll_outEn_iff (hwait : s.seq.isWait = true) (h : s.outEn = true ↔ s.seq = .playWait) :
    s.poll.outEn = true ↔ s.poll.seq = .playWait := by
  by_cases hn : s.n = 1
  · cases hs : s.seq with
    | playWait => simp [State.poll_play hs hn]
    | sleepWait => simp [State.poll_sleep hs hn, h, hs]
    | gkDebounce => simp [State.poll_debounce hs hn, h, hs]
    | idle | gkConv1 | gkConv2 => rw [hs] at hwait; cases hwait
  · simpa [State.poll_more hn] using h

theorem State.conv1Step_seq_ne_playWait : s.conv1Step.seq ≠ .playWait := by
  unfold State.conv1Step
  split <;> simp

theorem State.conv2Step_seq_ne_playWait : s.conv2Step.seq ≠ .playWait := by
  unfold State.conv2Step
  split <;> simp

theorem State.seqTurn_outEn_iff (h : s.outEn = true ↔ s.seq = .playWait) :
    s.seqTurn.outEn = true ↔ s.seqTurn.seq = .playWait := by
  cases hs : s.seq with
  | idle => rwa [State.seqTurn_idle hs]
  | playWait | sleepWait | gkDebounce =>
    have hwait : s.seq.isWait = true := by rw [hs]; rfl
    rw [State.seqTurn_wait hwait]
    split
    · exact State.poll_outEn_iff hwait h
    · exact h
  | gkConv1 =>
    rw [State.seqTurn_conv1 hs]
    split
    · exact h
    · simp [State.conv1Step_seq_ne_playWait, h, hs]
  | gkConv2 =>
    rw [State.seqTurn_conv2 hs]
    split
    · exact h
    · simp [State.conv2Step_seq_ne_playWait, h, hs]

/-- Only a PLAY whose duration is not 0 leaves the output enabled, and it waits. -/
theorem exec_outEn_iff {i : Instr} (hoff : s.outEn = false) (h : exec i s = .next t) :
    t.outEn = true ↔ t.seq = .playWait := by
  cases i with
  | play d a b =>
    obtain ⟨-, rfl⟩ | ⟨-, rfl⟩ | rfl := exec_play_cases h
    · simp
    · simp [State.toneLoaded]
    · simp [hoff]
  | sleep m =>
    rcases eq_or_ne m 0 with rfl | hm
    · cases h
      simp [hoff]
    · rw [exec_sleep_wait hm] at h
      cases h
      simp [hoff]
  | getkey | arm | disarm | lptake | tmask | tunmask | stat =>
    cases h
    simp [hoff]

theorem presentWord_outEn_iff {w : CmdWord} (hs : s.outEn = true ↔ s.seq = .playWait)
    (h : presentWord w s = .next t) : t.outEn = true ↔ t.seq = .playWait := by
  obtain ⟨-, rfl⟩ | ⟨hidle, haccept⟩ := presentWord_cases h
  · exact hs
  · have hoff : s.outEn = false := by simpa [hidle] using hs
    obtain ⟨i, -, hexec⟩ | ⟨-, -, rfl⟩ := acceptWord_cases haccept
    · exact exec_outEn_iff hoff hexec
    · simp [hoff]

/-- Every step keeps "OUT_EN is 1 exactly while a PLAY waits". -/
theorem step_outEn_iff (hs : s.outEn = true ↔ s.seq = .playWait) (h : step s = .next t) :
    t.outEn = true ↔ t.seq = .playWait := by
  obtain ⟨-, hpolls, rfl⟩ | ⟨-, hevent⟩ := step_cases h
  · exact State.poll_outEn_iff (State.pollsFirst_iff.1 hpolls).1 hs
  · have hs' : s.quiet.consume.outEn = true ↔ s.quiet.consume.seq = .playWait := by simpa using hs
    obtain ⟨-, rfl⟩ | ⟨v, -, rfl⟩ | ⟨w, -, hword⟩ | ⟨-, rfl⟩ | ⟨-, rfl⟩ | ⟨-, rfl⟩ := onEvent_cases hevent
    · simpa using hs
    · simpa using hs
    · exact presentWord_outEn_iff hs' hword
    · exact hs'
    · exact State.seqTurn_outEn_iff hs'
    · simp

/-- Settles O11: the turn that ends a PLAY is its completion, and with OUT_EN at 0 the tick step after it writes MID and
advances nothing; along every step OUT_EN follows SEQ. -/
theorem playCompletes : Obligations.PlayCompletes := by
  unfold Obligations.PlayCompletes
  refine ⟨fun s hs hms hn => ?_, fun s t hinv h => step_outEn_iff hinv.outEn_iff h⟩
  rw [State.seqTurn_poll_play hs hms hn]
  simp [Responded, respWord, State.tickStep_level, State.tickStep_phaseA, State.tickStep_phaseB, SameOsc, SameLongPress,
    SameGate, SameReadings, SameAdc, SameEnv]

end Sys2Proof.Machine
end

section
/-! classify: the band table in order, and the scan over it (spec 20_memory R44, 42_key_decoder R125). -/

namespace Sys2Proof.Machine

/-! ### The bands in table order (R44) -/

/-- Every band of the list ends below the start of each band after it. -/
def BandsAscend (bs : List Band) : Prop := bs.Pairwise fun b d => b.hi.toNat < d.lo.toNat

theorem bandsAscend_of_contiguous (bs : List Band) (hle : ∀ b ∈ bs, b.lo.toNat ≤ b.hi.toNat)
    (hnext : bandsContiguous bs = true) : BandsAscend bs := by
  induction bs with
  | nil => exact .nil
  | cons b bs ih =>
    cases bs with
    | nil => exact List.pairwise_singleton _ _
    | cons c rest =>
      simp only [bandsContiguous, Bool.and_eq_true, beq_iff_eq] at hnext
      obtain ⟨hbc, hrest⟩ := hnext
      have htail : BandsAscend (c :: rest) := ih (fun d hd => hle d (.tail _ hd)) hrest
      refine List.pairwise_cons.2 ⟨fun d hd => ?_, htail⟩
      rcases List.mem_cons.1 hd with rfl | hd
      · omega
      · have hc : c.lo.toNat ≤ c.hi.toNat := hle c (by simp)
        have hcd : c.hi.toNat < d.lo.toNat := List.rel_of_pairwise_cons htail hd
        omega

theorem bandsAscend_bands (c : Config) : BandsAscend c.bands := by
  obtain ⟨-, hbounds, hnext, -⟩ := c.band_facts
  exact bandsAscend_of_contiguous c.bands (fun b hb => (hbounds b hb).1) hnext

/-! ### The scan (R125) -/

section Scan

variable {bs : List Band} {b : Band} {r : Byte}

/-- No band before the one that holds the reading holds it too, so the scan gets there. -/
theorem scanBands_of_mem (hasc : BandsAscend bs) (hb : b ∈ bs) (hlo : b.lo.toNat ≤ r.toNat)
    (hhi : r.toNat ≤ b.hi.toNat) : scanBands bs r = b.key := by
  induction bs with
  | nil => cases hb
  | cons d rest ih =>
    rcases List.mem_cons.1 hb with rfl | hrest
    · exact if_pos ⟨hlo, hhi⟩
    · have hdb : d.hi.toNat < b.lo.toNat := List.rel_of_pairwise_cons hasc hrest
      rw [scanBands, if_neg (by omega)]
      exact ih (List.Pairwise.of_cons hasc) hrest

theorem scanBands_outside (h : ∀ b ∈ bs, r.toNat < b.lo.toNat ∨ b.hi.toNat < r.toNat) : scanBands bs r = 0 := by
  induction bs with
  | nil => rfl
  | cons d rest ih =>
    have hd := h d (by simp)
    rw [scanBands, if_neg (by omega)]
    exact ih fun b hb => h b (.tail _ hb)

theorem scanBands_toNat_le {m : Nat} (h : ∀ b ∈ bs, b.key.toNat ≤ m) : (scanBands bs r).toNat ≤ m := by
  induction bs with
  | nil => exact Nat.zero_le m
  | cons d rest ih =>
    rw [scanBands]
    split
    · exact h d (by simp)
    · exact ih fun b hb => h b (.tail _ hb)

end Scan

/-! ### The noise floor (R125) -/

section Floor

variable {c : Config} {r : Byte}

theorem classify_below_floor (h : r.toNat < c.adcFloor.toNat) : classify c r = 0 := if_pos h

theorem classify_above_floor (h : c.adcFloor.toNat ≤ r.toNat) : classify c r = scanBands c.bands r :=
  if_neg (Nat.not_lt.2 h)

end Floor

/-- Settles O25: no band reaches below the floor, and above it the scan finds the one band that holds the reading. -/
theorem classifyByBands : Obligations.ClassifyByBands := by
  unfold Obligations.ClassifyByBands
  intro c r
  refine ⟨classify_below_floor, fun b hb hlo hhi => ?_, fun hout => ?_, ?_⟩
  · obtain ⟨-, hbounds, -⟩ := c.band_facts
    rw [classify_above_floor ((hbounds b hb).2.trans hlo)]
    exact scanBands_of_mem (bandsAscend_bands c) hb hlo hhi
  · rcases Nat.lt_or_ge r.toNat c.adcFloor.toNat with hlow | hfloor
    · exact classify_below_floor hlow
    · rw [classify_above_floor hfloor, scanBands_outside hout]
  · rcases Nat.lt_or_ge r.toNat c.adcFloor.toNat with hlow | hfloor
    · rw [classify_below_floor hlow]
      decide
    · rw [classify_above_floor hfloor]
      exact scanBands_toNat_le fun b hb => (c.band_keys b hb).2

end Sys2Proof.Machine
end

section
/-! GETKEY: its words and accept step, and its two conversion steps (spec 42_key_decoder R120, R122, R124). -/

namespace Sys2Proof.Machine

variable {s : State}

/-! ### The word and the accept step (R120) -/

theorem decodeBare_unused {f : Fields} {i : Instr} (h : f.a ≠ 0 ∨ f.b ≠ 0 ∨ f.c ≠ 0) :
    decodeBare f i = .illegal .unusedOperand := by
  have hunused : ¬((f.a = 0 ∧ f.b = 0) ∧ f.c = 0) := by tauto
  simpa [decodeBare, requireClear] using hunused

theorem decodeFields_getkey {f : Fields} (hop : f.op = 0x03) (hz : f.z = 0) :
    decodeFields f = decodeBare f .getkey := by
  simp [decodeFields, hop, hz]

theorem exec_getkey (s : State) : exec .getkey s = .next s.beginAccept.firstConversion := rfl

/-- Settles O20: Z is checked before the operands, and the accept step is the start of an attempt alone. -/
theorem getkeyStartsConversion : Obligations.GetkeyStartsConversion := by
  unfold Obligations.GetkeyStartsConversion
  refine ⟨fun f hop h => ?_, fun s => ⟨_, exec_getkey s, ?_⟩⟩
  · by_cases hz : f.z = 0
    · rw [decodeFields_getkey hop hz]
      exact ⟨_, decodeBare_unused (by tauto)⟩
    · exact ⟨_, decodeFields_reservedZ hz⟩
  · simp [SameOsc, SameOutput, SameClock, SameLongPress, SameGate, SameReadings, SameEnv]

/-! ### The conversion steps (R122, R124) -/

theorem State.conv1Step_debounce (h : s.cfg.debounceMs ≠ 0) :
    s.conv1Step = s.await s.cfg.debounceMs .gkDebounce :=
  if_neg (by simpa using h)

theorem State.conv1Step_straight_on (h : s.cfg.debounceMs = 0) : s.conv1Step = s.secondConversion :=
  if_pos (by simpa using h)

theorem State.conv2Step_retry (h : s.s1 ≠ s.adcData) :
    s.conv2Step = { s with s2 := s.adcData }.firstConversion :=
  if_neg (by simpa using h)

theorem State.conv2Step_key (h : s.s1 = s.adcData) :
    s.conv2Step =
      { s with s2 := s.adcData, key := classify s.cfg s.adcData }.respond .ok (classify s.cfg s.adcData) :=
  if_pos (by simpa using h)

theorem State.seqTurn_conv1_done (hs : s.seq = .gkConv1) (h : s.adcBusy = false) : s.seqTurn = s.conv1Step := by
  simp [State.seqTurn_conv1 hs, h]

theorem State.seqTurn_conv2_done (hs : s.seq = .gkConv2) (h : s.adcBusy = false) : s.seqTurn = s.conv2Step := by
  simp [State.seqTurn_conv2 hs, h]

/-- Settles O22: the turn waits, enters the debounce, or starts the second conversion. -/
theorem firstConversionDone : Obligations.FirstConversionDone := by
  unfold Obligations.FirstConversionDone
  refine fun s hs => ⟨fun hbusy => ?_, fun hdone hms => ?_, fun hdone hms => ?_⟩
  · simp [State.seqTurn_conv1 hs, hbusy]
  · rw [State.seqTurn_conv1_done hs hdone, State.conv1Step_debounce hms]
    rfl
  · rw [State.seqTurn_conv1_done hs hdone, State.conv1Step_straight_on hms]
    rfl

/-- Settles O24: the turn waits, starts the next attempt, or responds with the key. -/
theorem secondConversionDone : Obligations.SecondConversionDone := by
  unfold Obligations.SecondConversionDone
  refine fun s hs => ⟨fun hbusy => ?_, fun hdone hne => ?_, fun hdone heq => ?_⟩
  · simp [State.seqTurn_conv2 hs, hbusy]
  · rw [State.seqTurn_conv2_done hs hdone, State.conv2Step_retry hne]
    rfl
  · rw [State.seqTurn_conv2_done hs hdone, State.conv2Step_key heq]
    rfl

end Sys2Proof.Machine
end

section
/-! The long-press commands: ARM, DISARM, LPTAKE (spec 43 R140 to R142). -/

namespace Sys2Proof.Machine

/-! ### The accept steps -/

/-- The state with these long-press registers. -/
def State.setLp (s : State) (armed : Bool) (cnt : Half) (flag : Bool) : State :=
  { s with lpArmed := armed, lpCnt := cnt, lpFlag := flag }

section AcceptSteps

variable (s : State)

theorem exec_arm :
    exec .arm s = .next ((s.beginAccept.setLp true s.cfg.longpressTime false).respond .ok 0) := rfl

theorem exec_disarm :
    exec .disarm s = .next ((s.beginAccept.setLp false s.cfg.longpressTime false).respond .ok 0) := rfl

theorem exec_lptake :
    exec .lptake s = .next ((s.beginAccept.setLp s.lpArmed s.lpCnt false).respond .ok (flagByte s.lpFlag)) := rfl

/-- The frame of an accept step that writes the long-press registers and responds. -/
theorem State.setLp_respond_frame (armed : Bool) (cnt : Half) (flag : Bool) (v : Byte) :
    let t := (s.beginAccept.setLp armed cnt flag).respond .ok v
    SameOsc s t ∧ SameOutput s t ∧ SameClock s t ∧ SameGate s t ∧ t.n = s.n ∧ SameReadings s t ∧ SameAdc s t ∧
      SameEnv s t := by
  simp [State.setLp, SameOsc, SameOutput, SameClock, SameGate, SameReadings, SameAdc, SameEnv]

end AcceptSteps

/-- One flag as the response word of LPTAKE. -/
theorem respWord_flagByte (b : Bool) : respWord .ok (flagByte b) = if b then 0x0001 else 0x0000 := by
  cases b <;> rfl

/-! ### The long-press registers along tick steps (R86) -/

@[simp] theorem tickStep_iterate_lpArmed (s : State) (n : Nat) : (State.tickStep^[n] s).lpArmed = s.lpArmed := by
  induction n with
  | zero => rfl
  | succ n ih => rw [Function.iterate_succ_apply', State.tickStep_lpArmed, ih]

/-- Before the clock wraps, the countdown stands. -/
theorem tickStep_iterate_lpCnt_before_wrap {s : State} {j : Nat} (h : s.tickCnt + j < s.cfg.ticksPerMs) :
    (State.tickStep^[j] s).lpCnt = s.lpCnt := by
  induction j with
  | zero => rfl
  | succ j ih =>
    have hgo : ¬(State.tickStep^[j] s).clockWraps = true := by
      rw [tickStep_iterate_clockWraps_iff (by omega) (by omega)]
      omega
    rw [Function.iterate_succ_apply', State.tickStep_lpCnt, ← ih (by omega)]
    simp [hgo]

/-- The tick step that wraps the clock is the one that counts an armed countdown down. -/
theorem tickStep_iterate_lpCnt_at_wrap {s : State} (h : s.tickCnt < s.cfg.ticksPerMs) (harm : s.lpArmed = true) :
    (State.tickStep^[s.cfg.ticksPerMs - s.tickCnt] s).lpCnt =
      if s.lpCnt = 1 then s.cfg.longpressTime else s.lpCnt - 1 := by
  have hlast : s.cfg.ticksPerMs - s.tickCnt = (s.cfg.ticksPerMs - 1 - s.tickCnt) + 1 := by omega
  have hwrap := (tickStep_iterate_clockWraps_iff h (j := s.cfg.ticksPerMs - 1 - s.tickCnt) (by omega)).2 rfl
  have hcnt : (State.tickStep^[s.cfg.ticksPerMs - 1 - s.tickCnt] s).lpCnt = s.lpCnt :=
    tickStep_iterate_lpCnt_before_wrap (by omega)
  rw [hlast, Function.iterate_succ_apply', State.tickStep_lpCnt]
  simp [hwrap, hcnt, harm]

/-- A disarmed arbiter keeps its countdown and its flag. -/
theorem tickStep_iterate_disarmed {s : State} (h : s.lpArmed = false) (j : Nat) :
    (State.tickStep^[j] s).lpCnt = s.lpCnt ∧ (State.tickStep^[j] s).lpFlag = s.lpFlag := by
  induction j with
  | zero => exact ⟨rfl, rfl⟩
  | succ j ih =>
    rw [Function.iterate_succ_apply', ← ih.1, ← ih.2]
    exact (longPressCountdown (State.tickStep^[j] s)).1 (.inl (by simpa using h))

/-! ### The statements (R140 to R142) -/

/-- Settles O1: the armed state's countdown stands until the clock wraps and goes down there. -/
theorem armRestartsCountdown : Obligations.ArmRestartsCountdown := by
  unfold Obligations.ArmRestartsCountdown
  intro s
  obtain ⟨hosc, hout, hclock, hgate, hn, hread, hadc, henv⟩ :=
    s.setLp_respond_frame true s.cfg.longpressTime false 0
  refine ⟨_, exec_arm s, rfl, rfl, rfl, State.responded_respond _ .ok 0, hosc, hout, hclock, hgate, hn, hread, hadc,
    henv, fun _ hj => tickStep_iterate_lpCnt_before_wrap hj, fun hlt => ?_⟩
  exact tickStep_iterate_lpCnt_at_wrap
    (s := (s.beginAccept.setLp true s.cfg.longpressTime false).respond .ok 0) hlt rfl

/-- Settles O2: a disarmed countdown stands; by the invariant a disarmed arbiter already holds DISARM's values. -/
theorem disarmStopsCountdown : Obligations.DisarmStopsCountdown := by
  unfold Obligations.DisarmStopsCountdown
  intro s
  obtain ⟨hosc, hout, hclock, hgate, hn, hread, hadc, henv⟩ :=
    s.setLp_respond_frame false s.cfg.longpressTime false 0
  refine ⟨_, exec_disarm s, rfl, rfl, rfl, State.responded_respond _ .ok 0, hosc, hout, hclock, hgate, hn, hread, hadc,
    henv, tickStep_iterate_disarmed rfl, fun hinv hoff => ?_⟩
  exact ⟨hosc, hout, hclock, ⟨hoff.symm, (hinv.disarmed_cnt hoff).symm, (hinv.disarmed_flag hoff).symm⟩, hgate, hn,
    hread, hadc, henv⟩

/-- Settles O3: the response is the flag of before, and the flag a second LPTAKE finds is the cleared one. -/
theorem lptakeReadsAndClears : Obligations.LptakeReadsAndClears := by
  unfold Obligations.LptakeReadsAndClears
  intro s
  obtain ⟨hosc, hout, hclock, hgate, hn, hread, hadc, henv⟩ :=
    s.setLp_respond_frame s.lpArmed s.lpCnt false (flagByte s.lpFlag)
  rw [← respWord_flagByte]
  refine ⟨_, exec_lptake s, State.responded_respond _ .ok _, rfl, rfl, rfl, hosc, hout, hclock, hgate, hn, hread, hadc,
    henv, ⟨_, exec_lptake _, State.responded_respond _ .ok 0, rfl⟩, fun hflag => ?_⟩
  simp [State.tickStep_lpFlag, hflag]

end Sys2Proof.Machine
end

section
/-! The tick gate: TMASK and TUNMASK (spec 43 R143, R144, 60_exceptions R204). -/

namespace Sys2Proof.Machine

/-- The state with these gate registers. -/
def State.setGate (s : State) (mask pend : Bool) : State := { s with tmask := mask, tpend := pend }

/-- The frame of an accept step that writes the gate registers and responds. -/
theorem State.setGate_respond_frame (s : State) (mask pend : Bool) :
    let t := (s.beginAccept.setGate mask pend).respond .ok 0
    SameOsc s t ∧ SameOutput s t ∧ SameClock s t ∧ SameLongPress s t ∧ t.n = s.n ∧ SameReadings s t ∧ SameAdc s t ∧
      SameEnv s t := by
  simp [State.setGate, SameOsc, SameOutput, SameClock, SameLongPress, SameReadings, SameAdc, SameEnv]

/-! ### Closing the gate (R143) -/

theorem exec_tmask (s : State) :
    exec .tmask s = .next ((s.beginAccept.setGate true s.tpend).respond .ok 0) := rfl

/-- R204 at a closed gate. -/
theorem State.tickEvent_closed {s : State} (h : s.tmask = true) : s.tickEvent = { s with tpend := true } := if_pos h

/-- Settles O5: the accept step writes TMASK alone, which a closed gate holds already. -/
theorem tmaskClosesGate : Obligations.TmaskClosesGate := by
  unfold Obligations.TmaskClosesGate
  intro s
  obtain ⟨hosc, hout, hclock, hlp, hn, hread, hadc, henv⟩ := s.setGate_respond_frame true s.tpend
  exact ⟨_, exec_tmask s, rfl, rfl, State.responded_respond _ .ok 0, hosc, hout, hclock, hlp, hn, hread, hadc, henv,
    State.tickEvent_closed rfl, fun hclosed => ⟨hosc, hout, hclock, hlp, ⟨hclosed.symm, rfl⟩, hn, hread, hadc, henv⟩⟩

/-! ### Opening the gate (R144) -/

theorem exec_tunmask_pending {s : State} (h : s.tpend = true) :
    exec .tunmask s = .next ((s.beginAccept.setGate false false).tickStep.respond .ok 0) := by
  simp [exec, execTunmask, State.openGate, State.setGate, h]

theorem exec_tunmask_none {s : State} (h : s.tpend = false) :
    exec .tunmask s = .next ((s.beginAccept.setGate false false).respond .ok 0) := by
  simp [exec, execTunmask, State.openGate, State.setGate, State.beginAccept, h]

/-- What a tick step writes depends neither on the gate nor on the response register. -/
theorem State.tickStep_setGate_writes (s : State) (mask pend : Bool) :
    let t := (s.beginAccept.setGate mask pend).tickStep
    t.level = s.tickStep.level ∧ t.phaseA = s.tickStep.phaseA ∧ t.phaseB = s.tickStep.phaseB ∧
      t.tickCnt = s.tickStep.tickCnt ∧ t.msFlag = s.tickStep.msFlag ∧ t.lpCnt = s.tickStep.lpCnt ∧
      t.lpFlag = s.tickStep.lpFlag := by
  simp only [State.tickStep_level, State.tickStep_phaseA, State.tickStep_phaseB, State.tickStep_tickCnt,
    State.tickStep_msFlag, State.tickStep_lpCnt, State.tickStep_lpFlag]
  exact ⟨rfl, rfl, rfl, rfl, rfl, rfl, rfl⟩

/-- Settles O6: with an event pending the accept step is the tick step at the opened gate, else the opening alone. -/
theorem tunmaskOpensGate : Obligations.TunmaskOpensGate := by
  unfold Obligations.TunmaskOpensGate
  intro s
  cases hpend : s.tpend with
  | true =>
    have hmask : (s.beginAccept.setGate false false).tickStep.tmask = false := State.tickStep_tmask _
    have hpending : (s.beginAccept.setGate false false).tickStep.tpend = false := State.tickStep_tpend _
    refine ⟨_, exec_tunmask_pending hpend, hmask, hpending, State.responded_respond _ .ok 0,
      fun _ => s.tickStep_setGate_writes false false, nofun, ?_⟩
    simp [State.setGate, SameReadings, SameAdc, SameEnv]
  | false =>
    obtain ⟨hosc, hout, hclock, hlp, hn, hread, hadc, henv⟩ := s.setGate_respond_frame false false
    exact ⟨_, exec_tunmask_none hpend, rfl, rfl, State.responded_respond _ .ok 0, nofun,
      fun _ => ⟨hosc, hout, hclock, hlp⟩, rfl, rfl, rfl, rfl, hn, hread, hadc, henv⟩

end Sys2Proof.Machine
end

section
/-! How the host's ring buffer bounds what is inserted (spec 45_host_contract R168): obligation O56. -/

namespace Sys2Proof.Machine

/-! ### One insert -/

/-- A full buffer that rejects keeps what it has: either way the oldest `chunkPayload` keys stay. -/
theorem Ring.insert_rejectWhenFull_keys {r : Ring} (h : r.count ≤ chunkPayload) (k : Byte) :
    (r.insert .rejectWhenFull k).keys = (r.keys ++ [k]).take chunkPayload := by
  unfold Ring.count at h
  unfold Ring.insert
  split
  case isTrue room => exact (List.take_of_length_le (by simpa using room)).symm
  case isFalse full =>
    have hlen : r.keys.length = chunkPayload := by omega
    exact (List.take_left' hlen).symm

/-- A full buffer that drops gives up its oldest key: either way the newest `chunkPayload` keys stay. -/
theorem Ring.insert_dropOldest_keys {r : Ring} (h : r.count ≤ chunkPayload) (k : Byte) :
    (r.insert .dropOldest k).keys = (r.keys ++ [k]).rtake chunkPayload := by
  unfold Ring.count at h
  unfold Ring.insert List.rtake
  rw [List.length_append, List.length_singleton]
  split
  case isTrue room => rw [Nat.sub_eq_zero_of_le room, List.drop_zero]
  case isFalse full =>
    have hlen : r.keys.length = chunkPayload := by omega
    have hpos : 1 ≤ r.keys.length := by rw [hlen]; decide
    rw [hlen, Nat.add_sub_cancel_left, List.drop_append_of_le_length hpos]

theorem Ring.count_insert_le (policy : OverflowPolicy) {r : Ring} (h : r.count ≤ chunkPayload) (k : Byte) :
    (r.insert policy k).count ≤ chunkPayload := by
  cases policy with
  | rejectWhenFull =>
    rw [Ring.count, Ring.insert_rejectWhenFull_keys h]
    exact List.length_take_le ..
  | dropOldest =>
    rw [Ring.count, Ring.insert_dropOldest_keys h, List.rtake, List.length_drop]
    omega

/-! ### Every insert since the buffer was empty -/

/-- The buffer after `init` and then an `insert` of each key. -/
def Ring.fill (policy : OverflowPolicy) (ks : List Byte) : Ring := ks.foldl (Ring.insert policy) Ring.init

@[simp] theorem Ring.fill_nil (policy : OverflowPolicy) : Ring.fill policy [] = Ring.init := rfl

@[simp] theorem Ring.fill_concat (policy : OverflowPolicy) (ks : List Byte) (k : Byte) :
    Ring.fill policy (ks ++ [k]) = (Ring.fill policy ks).insert policy k := List.foldl_concat ..

theorem Ring.count_fill_le (policy : OverflowPolicy) (ks : List Byte) :
    (Ring.fill policy ks).count ≤ chunkPayload := by
  induction ks using List.reverseRecOn with
  | nil => exact Nat.zero_le _
  | append_singleton ks k ih =>
    rw [Ring.fill_concat]
    exact Ring.count_insert_le policy ih k

/-- Taking the oldest keys after each insert is taking them once, at the end. -/
theorem Ring.fill_rejectWhenFull_keys (ks : List Byte) :
    (Ring.fill .rejectWhenFull ks).keys = ks.take chunkPayload := by
  induction ks using List.reverseRecOn with
  | nil => rfl
  | append_singleton ks k ih =>
    have hroom : chunkPayload - min chunkPayload ks.length = chunkPayload - ks.length := by omega
    rw [Ring.fill_concat, Ring.insert_rejectWhenFull_keys (Ring.count_fill_le ..), ih]
    simp only [List.take_append, List.take_take, List.length_take, Nat.min_self, hroom]

/-- Taking the newest keys after each insert is taking them once, at the end. -/
theorem Ring.fill_dropOldest_keys (ks : List Byte) :
    (Ring.fill .dropOldest ks).keys = ks.rtake chunkPayload := by
  induction ks using List.reverseRecOn with
  | nil => rfl
  | append_singleton ks k ih =>
    have hcap : chunkPayload = 39 + 1 := rfl
    rw [Ring.fill_concat, Ring.insert_dropOldest_keys (Ring.count_fill_le ..), ih, hcap, List.rtake_concat_succ,
      List.rtake_concat_succ]
    simp [List.rtake_eq_reverse_take_reverse, List.take_take]

/-- Settles O56: each insert keeps the oldest or the newest keys, so the fold over all of them does. -/
theorem ringBufferBounded : Obligations.RingBufferBounded := by
  unfold Obligations.RingBufferBounded
  intro ks
  exact ⟨Ring.fill_rejectWhenFull_keys ks, Ring.fill_dropOldest_keys ks, fun policy => Ring.count_fill_le policy ks⟩

end Sys2Proof.Machine
end

section
/-! A word that matches no row of the opcode map (spec 30_encoding R62 to R64, 60_exceptions R201): obligation O44. -/

namespace Sys2Proof

/-! ### A decoded word is its command's word (R60, R62) -/

/-- The bit of a word that stands inside one of its slices. -/
theorem getLsbD_extractLsb'_sub (w : CmdWord) {lo n i : Nat} (hlo : lo ≤ i) (hhi : i < lo + n) :
    (w.extractLsb' lo n).getLsbD (i - lo) = w.getLsbD i := by
  have hin : i - lo < n := by omega
  simp [hin, hlo]

@[simp] theorem wordOf_fieldsOf (w : CmdWord) : wordOf (fieldsOf w) = w := by
  refine BitVec.eq_of_getLsbD_eq fun i hi => ?_
  rw [wordOf_getLsbD]
  split_ifs
  · exact getLsbD_extractLsb'_sub w (lo := 0) (by omega) (by omega)
  all_goals exact getLsbD_extractLsb'_sub w (by omega) (by omega)

theorem requireClear_eq_instr {clear : Bool} {i j : Instr} (h : requireClear clear j = .instr i) :
    clear = true ∧ j = i := by
  cases clear with
  | false => cases h
  | true => exact ⟨rfl, Decoded.instr.inj h⟩

/-- A command without operands is decoded only from its own fields: its OP, and zero everywhere else. -/
theorem instrFields_of_decodeBare {f : Fields} {i j : Instr} (hz : f.z = 0) (hop : f.op.toNat = (opcode j).toNat)
    (hbare : instrFields j = { op := opcode j, a := 0, b := 0, c := 0, z := 0 }) (h : decodeBare f j = .instr i) :
    instrFields i = f := by
  obtain ⟨hclear, rfl⟩ := requireClear_eq_instr h
  simp only [Bool.and_eq_true, beq_iff_eq] at hclear
  obtain ⟨⟨ha, hb⟩, hc⟩ := hclear
  rw [hbare, ← BitVec.eq_of_toNat_eq hop, ← hz, ← ha]
  cases f
  simp_all

/-- The fields of a decoded command are the fields it is decoded from. -/
theorem instrFields_of_decodeFields {f : Fields} {i : Instr} (h : decodeFields f = .instr i) : instrFields i = f := by
  unfold decodeFields at h
  split at h
  case isFalse => cases h
  case isTrue hz =>
    have hz : f.z = 0 := by simpa using hz
    split at h
    case h_1 hop =>
      have hop : f.op = 1 := BitVec.eq_of_toNat_eq hop
      cases h
      cases f
      simp_all [instrFields, opcode]
    case h_2 hop =>
      have hop : f.op = 2 := BitVec.eq_of_toNat_eq hop
      obtain ⟨hclear, rfl⟩ := requireClear_eq_instr h
      cases f
      simp_all [instrFields, opcode]
    case h_10 => cases h
    all_goals exact instrFields_of_decodeBare hz ‹_› rfl h

/-- A word that decodes is the word of its command. -/
theorem encode_of_decode {w : CmdWord} {i : Instr} (h : decode w = .instr i) : encode i = w := by
  rw [encode, instrFields_of_decodeFields h, wordOf_fieldsOf]

/-! ### The rows (R62) -/

/-- A command's word is one of its own row's words. -/
theorem matchesRow_encode (i : Instr) : matchesRow i (encode i) = true := by
  cases i with
  | play d a b => exact (Laws.Encoding.play d a b).1
  | sleep n => exact (Laws.Encoding.sleep n).1
  | getkey => exact Laws.Encoding.getkey.1
  | arm => exact Laws.Encoding.arm.1
  | disarm => exact Laws.Encoding.disarm.1
  | lptake => exact Laws.Encoding.lptake.1
  | tmask => exact Laws.Encoding.tmask.1
  | tunmask => exact Laws.Encoding.tunmask.1
  | stat => exact Laws.Encoding.stat.1

theorem matchesRow_of_decode {w : CmdWord} {i : Instr} (h : decode w = .instr i) : matchesRow i w = true := by
  rw [← encode_of_decode h]
  exact matchesRow_encode i

theorem decode_illegal_of_no_row {w : CmdWord} (h : ∀ i, matchesRow i w = false) : ∃ why, decode w = .illegal why := by
  cases hdecode : decode w with
  | illegal why => exact ⟨why, rfl⟩
  | instr i => exact absurd (matchesRow_of_decode hdecode) (by simp [h i])

end Sys2Proof

namespace Sys2Proof.Machine

variable {s : State}

/-! ### The rejection (R201) -/

theorem presentWord_idle (h : s.seq = .idle) (w : CmdWord) : presentWord w s = acceptWord w s :=
  if_pos (by simp [State.cmdReady, h])

theorem acceptWord_illegal {w : CmdWord} {why : Illegal} (h : decode w = .illegal why) :
    acceptWord w s = .next (s.beginAccept.reject .illegal) := by
  rw [acceptWord, h]

/-- Settles O44: a word that decodes is the word of its command and so matches that command's row; any other word
is rejected, which writes the response alone. -/
theorem illegalWordRejected : Obligations.IllegalWordRejected := by
  unfold Obligations.IllegalWordRejected
  intro s w hidle hrow
  obtain ⟨why, hdecode⟩ := decode_illegal_of_no_row hrow
  exact ⟨_, (presentWord_idle hidle w).trans (acceptWord_illegal hdecode), State.responded_respond _ .illegal 0,
    State.sameButResponse_respond s .illegal 0⟩

end Sys2Proof.Machine
end

section
/-! The reset step (spec 70_reset_and_hazards R230): obligation O53. -/

namespace Sys2Proof.Machine

variable {s : State}

/-- A step that no poll step goes before is the next move's own effect. -/
theorem step_event (h : s.nextEvent = .tick → s.pollsFirst = false) :
    step s = onEvent s.nextEvent s.quiet.consume :=
  if_neg (by simpa using h)

theorem step_reset (h : s.nextEvent = .reset) : step s = .next s.quiet.consume.resetBlock := by
  rw [step_event (by simp [h]), h, onEvent]

theorem State.adcDone_not_busy (h : s.adcBusy = false) (v : Byte) : s.adcDone v = s :=
  if_neg (by simp [h])

@[simp] theorem State.resetBlock_cmdReady : s.resetBlock.cmdReady = true := rfl

/-- Settles O53: the step is the block at its reset values, where no conversion runs and SEQ is IDLE. -/
theorem resetWritesEveryRegister : Obligations.ResetWritesEveryRegister := by
  unfold Obligations.ResetWritesEveryRegister
  intro s hreset
  have hlate (v : Byte) : s.quiet.consume.resetBlock.adcDone v = s.quiet.consume.resetBlock :=
    State.adcDone_not_busy (State.resetBlock_adcBusy _) v
  exact ⟨_, step_reset hreset, by simp [hlate]⟩

end Sys2Proof.Machine
end

section
/-! The command words: fields of a word, the rows of the opcode map, the eight bytes (spec 20_memory R47, 30_encoding
R60 to R64): obligations O39 to O43. -/

namespace Sys2Proof

/-! ### The fields of a word (R60) -/

/-- A slice of a word, bit by bit through the field it lies in. -/
theorem extractLsb'_eq_of_getLsbD {w : CmdWord} {lo n : Nat} {x : BitVec n}
    (h : ∀ i, i < n → w.getLsbD (lo + i) = x.getLsbD i) : w.extractLsb' lo n = x := by
  refine BitVec.eq_of_getLsbD_eq fun i hi => ?_
  simp [hi, h i hi]

/-- Each field is read back from the word it was put in. -/
@[simp] theorem fieldsOf_wordOf (f : Fields) : fieldsOf (wordOf f) = f := by
  have hop : (wordOf f).extractLsb' 56 8 = f.op :=
    extractLsb'_eq_of_getLsbD fun i hi => by
      rw [wordOf_getLsbD, if_neg, if_neg, if_neg, if_neg, Nat.add_sub_cancel_left] <;> omega
  have ha : (wordOf f).extractLsb' 40 16 = f.a :=
    extractLsb'_eq_of_getLsbD fun i hi => by
      rw [wordOf_getLsbD, if_neg, if_neg, if_neg, if_pos, Nat.add_sub_cancel_left] <;> omega
  have hb : (wordOf f).extractLsb' 24 16 = f.b :=
    extractLsb'_eq_of_getLsbD fun i hi => by
      rw [wordOf_getLsbD, if_neg, if_neg, if_pos, Nat.add_sub_cancel_left] <;> omega
  have hc : (wordOf f).extractLsb' 8 16 = f.c :=
    extractLsb'_eq_of_getLsbD fun i hi => by
      rw [wordOf_getLsbD, if_neg, if_pos, Nat.add_sub_cancel_left] <;> omega
  have hz : (wordOf f).extractLsb' 0 8 = f.z :=
    extractLsb'_eq_of_getLsbD fun i hi => by
      rw [wordOf_getLsbD, if_pos, Nat.zero_add]; omega
  simp only [fieldsOf, hop, ha, hb, hc, hz]

/-! ### A command's word decodes to it (R62 to R64) -/

theorem decodeFields_instrFields (i : Instr) : decodeFields (instrFields i) = .instr i := by
  cases i <;> rfl

/-- The word of a command decodes to the command. -/
@[simp] theorem decode_encode (i : Instr) : decode (encode i) = .instr i := by
  rw [decode, encode, fieldsOf_wordOf, decodeFields_instrFields]

/-- Settles O39: the fields are read back from the word, and a command's fields pass every check of R64. -/
theorem decodeEncodeRoundTrip : Obligations.DecodeEncodeRoundTrip := by
  unfold Obligations.DecodeEncodeRoundTrip
  exact decode_encode

/-- Settles O40: the fields a command is decoded from are the command's own. -/
theorem encodeDecodeRoundTrip : Obligations.EncodeDecodeRoundTrip := by
  unfold Obligations.EncodeDecodeRoundTrip
  exact fun _ _ => encode_of_decode

/-! ### The rows of the opcode map (R62) -/

theorem matchesRow_iff {i : Instr} {w : CmdWord} : matchesRow i w = true ↔ w &&& rowMask i = rowMatch i := by
  simp [matchesRow]

/-- Where a mask leaves no bit of a slice free, a word that matches under it has the slice of what it matches. -/
theorem slice_of_masked {w mask matched : CmdWord} {lo n : Nat} {x : BitVec n} (h : w &&& mask = matched)
    (hmask : mask.extractLsb' lo n = BitVec.allOnes n) (hx : matched.extractLsb' lo n = x) :
    w.extractLsb' lo n = x := by
  rw [← hx, ← h, BitVec.extractLsb'_and, hmask, BitVec.and_allOnes]

theorem decode_of_matchesRow_play {d a b : Half} {w : CmdWord} (h : matchesRow (.play d a b) w = true) :
    decode w = .instr (.play (fieldsOf w).a (fieldsOf w).b (fieldsOf w).c) := by
  have hw : w &&& 0xFF000000000000FF#64 = 0x0100000000000000#64 := matchesRow_iff.1 h
  have hop : w.extractLsb' 56 8 = 1#8 := slice_of_masked hw (by decide) (by decide)
  have hz : w.extractLsb' 0 8 = 0#8 := slice_of_masked hw (by decide) (by decide)
  simp [decode, decodeFields, fieldsOf, hop, hz]

theorem decode_of_matchesRow_sleep {m : Half} {w : CmdWord} (h : matchesRow (.sleep m) w = true) :
    decode w = .instr (.sleep (fieldsOf w).a) := by
  have hw : w &&& 0xFF0000FFFFFFFFFF#64 = 0x0200000000000000#64 := matchesRow_iff.1 h
  have hop : w.extractLsb' 56 8 = 2#8 := slice_of_masked hw (by decide) (by decide)
  have hb : w.extractLsb' 24 16 = 0#16 := slice_of_masked hw (by decide) (by decide)
  have hc : w.extractLsb' 8 16 = 0#16 := slice_of_masked hw (by decide) (by decide)
  have hz : w.extractLsb' 0 8 = 0#8 := slice_of_masked hw (by decide) (by decide)
  simp [decode, decodeFields, fieldsOf, requireClear, hop, hb, hc, hz]

/-- The mask of a command without operands leaves no bit free: its row is one word. -/
theorem decode_of_matchesRow_bare {i : Instr} {w : CmdWord} (hmask : rowMask i = BitVec.allOnes 64)
    (hrow : rowMatch i = encode i) (h : matchesRow i w = true) : decode w = .instr i := by
  have hw : w = encode i := by rw [← hrow, ← matchesRow_iff.1 h, hmask, BitVec.and_allOnes]
  rw [hw, decode_encode]

/-- A word of a row decodes to a command with the row's opcode. -/
theorem decode_of_matchesRow {i : Instr} {w : CmdWord} (h : matchesRow i w = true) :
    ∃ j, decode w = .instr j ∧ opcode j = opcode i := by
  cases i with
  | play d a b => exact ⟨_, decode_of_matchesRow_play h, rfl⟩
  | sleep m => exact ⟨_, decode_of_matchesRow_sleep h, rfl⟩
  | getkey | arm | disarm | lptake | tmask | tunmask | stat =>
    exact ⟨_, decode_of_matchesRow_bare rfl (by decide) h, rfl⟩

/-- Settles O41: a decoded word is its command's word, which lies in its row; a row's mask fixes OP and every field
the command does not use. -/
theorem decodesIffRowMatches : Obligations.DecodesIffRowMatches := by
  unfold Obligations.DecodesIffRowMatches
  exact ⟨fun _ _ => matchesRow_of_decode, fun _ _ => decode_of_matchesRow⟩

/-! ### The eight bytes (spec 20_memory R47) -/

/-- The bytes of a word, put together again from the most significant down. -/
theorem wordOfBytes_slices (w : CmdWord) :
    wordOfBytes (w.extractLsb' 56 8) (w.extractLsb' 48 8) (w.extractLsb' 40 8) (w.extractLsb' 32 8)
      (w.extractLsb' 24 8) (w.extractLsb' 16 8) (w.extractLsb' 8 8) (w.extractLsb' 0 8) = w := by
  refine BitVec.eq_of_getLsbD_eq fun i hi => ?_
  change (w.extractLsb' 56 8 ++ w.extractLsb' 48 8 ++ w.extractLsb' 40 8 ++ w.extractLsb' 32 8 ++
    w.extractLsb' 24 8 ++ w.extractLsb' 16 8 ++ w.extractLsb' 8 8 ++ w.extractLsb' 0 8 :
      BitVec (8 + 8 + 8 + 8 + 8 + 8 + 8 + 8)).getLsbD i = _
  simp only [BitVec.getLsbD_append, Nat.sub_sub]
  split_ifs
  · exact getLsbD_extractLsb'_sub w (lo := 0) (by omega) (by omega)
  all_goals exact getLsbD_extractLsb'_sub w (by omega) (by omega)

theorem decodeBytes_bytesOfWord (w : CmdWord) (rest : List Byte) :
    decodeBytes (bytesOfWord w ++ rest) = some (decode w, rest) := by
  simp [bytesOfWord, decodeBytes, wordOfBytes_slices]

/-- Settles O42: the eight bytes are the word's slices, which make the word again. -/
theorem bytesRoundTrip : Obligations.BytesRoundTrip := by
  unfold Obligations.BytesRoundTrip
  intro i rest
  rw [encodeBytes, decodeBytes_bytesOfWord, decode_encode]

/-! ### The words of the spec's vectors (spec 95) -/

/-- Settles O43: each word is a literal, and the decoder runs on it. -/
theorem knownWordsDecode : Obligations.KnownWordsDecode := by
  unfold Obligations.KnownWordsDecode
  decide

end Sys2Proof
end

section
/-! What one step can be, move by move, with the state it ends in (spec 00_scope R3, 20_memory R51, R54). -/

namespace Sys2Proof.Machine

variable {s t : State}

/-- The steps of the machine: the poll step that guarantee (c) puts before a tick event, or the next move's own effect
on the state with the move taken. -/
inductive StepCase (s : State) : State → Prop
  | poll (hnext : s.nextEvent = .tick) (hpolls : s.pollsFirst = true) : StepCase s s.quiet.poll
  | tick (hnext : s.nextEvent = .tick) (hpolls : s.pollsFirst = false) : StepCase s s.quiet.consume.tickEvent
  | adcDone (v : Byte) (hnext : s.nextEvent = .adcDone v) : StepCase s (s.quiet.consume.adcDone v)
  | accept (w : CmdWord) (i : Instr) (t : State) (hnext : s.nextEvent = .command w) (hidle : s.seq = .idle)
      (hdecode : decode w = .instr i) (hexec : exec i s.quiet.consume = .next t) : StepCase s t
  | reject (w : CmdWord) (why : Illegal) (hnext : s.nextEvent = .command w) (hidle : s.seq = .idle)
      (hdecode : decode w = .illegal why) : StepCase s (s.quiet.consume.beginAccept.reject .illegal)
  | dropped (w : CmdWord) (hnext : s.nextEvent = .command w) (hbusy : s.seq ≠ .idle) : StepCase s s.quiet.consume
  | response (hnext : s.nextEvent = .takeResponse) : StepCase s s.quiet.consume
  | turn (hnext : s.nextEvent = .seqTurn) : StepCase s s.quiet.consume.seqTurn
  | reset (hnext : s.nextEvent = .reset) : StepCase s s.quiet.consume.resetBlock

/-- Every step that answers a next state is one of these. -/
theorem stepCase_of_step (h : step s = .next t) : StepCase s t := by
  obtain ⟨hnext, hpolls, rfl⟩ | ⟨hpolls, hevent⟩ := step_cases h
  · exact .poll hnext hpolls
  obtain ⟨hnext, rfl⟩ | ⟨v, hnext, rfl⟩ | ⟨w, hnext, hword⟩ | ⟨hnext, rfl⟩ | ⟨hnext, rfl⟩ | ⟨hnext, rfl⟩ :=
    onEvent_cases hevent
  · exact .tick hnext (hpolls hnext)
  · exact .adcDone v hnext
  · obtain ⟨hbusy, rfl⟩ | ⟨hidle, haccept⟩ := presentWord_cases hword
    · exact .dropped w hnext (by simpa using hbusy)
    have hidle : s.seq = .idle := by simpa using hidle
    obtain ⟨i, hdecode, hexec⟩ | ⟨why, hdecode, rfl⟩ := acceptWord_cases haccept
    · exact .accept w i t hnext hidle hdecode hexec
    · exact .reject w why hnext hidle hdecode
  · exact .response hnext
  · exact .turn hnext
  · exact .reset hnext

/-! ### The sequencer's own steps (41 R103, 42 R122, R124) -/

theorem not_idle_of_isWait {q : Seq} (h : q.isWait = true) : q ≠ .idle := by
  rintro rfl
  cases h

/-- The ends of a poll step: the wait goes on with one millisecond less, or it is over as its state says. -/
theorem State.poll_cases (hwait : s.seq.isWait = true) :
    (s.n ≠ 1 ∧ s.poll = s.countDown) ∨
      (s.n = 1 ∧ (s.seq = .playWait ∧ s.poll = s.countDown.playComplete ∨
        s.seq = .sleepWait ∧ s.poll = s.countDown.respond .ok 0 ∨
        s.seq = .gkDebounce ∧ s.poll = s.countDown.secondConversion)) := by
  by_cases hn : s.n = 1
  · refine .inr ⟨hn, ?_⟩
    cases hs : s.seq with
    | playWait => exact .inl ⟨rfl, State.poll_play hs hn⟩
    | sleepWait => exact .inr (.inl ⟨rfl, State.poll_sleep hs hn⟩)
    | gkDebounce => exact .inr (.inr ⟨rfl, State.poll_debounce hs hn⟩)
    | idle | gkConv1 | gkConv2 => rw [hs] at hwait; cases hwait
  · exact .inl ⟨hn, State.poll_more hn⟩

/-- The sequencer's turn: no step, the poll step, or a conversion step. -/
theorem State.seqTurn_cases (s : State) :
    s.seqTurn = s ∨ (s.seq.isWait = true ∧ s.msFlag = true ∧ s.seqTurn = s.poll) ∨
      (s.seq = .gkConv1 ∧ s.adcBusy = false ∧ s.seqTurn = s.conv1Step) ∨
      (s.seq = .gkConv2 ∧ s.adcBusy = false ∧ s.seqTurn = s.conv2Step) := by
  cases hs : s.seq with
  | idle => exact .inl (State.seqTurn_idle hs)
  | playWait | sleepWait | gkDebounce =>
    have hwait : s.seq.isWait = true := by rw [hs]; rfl
    rw [State.seqTurn_wait hwait]
    cases hms : s.msFlag with
    | true => exact .inr (.inl ⟨rfl, rfl, rfl⟩)
    | false => exact .inl rfl
  | gkConv1 =>
    rw [State.seqTurn_conv1 hs]
    cases hbusy : s.adcBusy with
    | true => exact .inl rfl
    | false => exact .inr (.inr (.inl ⟨rfl, rfl, rfl⟩))
  | gkConv2 =>
    rw [State.seqTurn_conv2 hs]
    cases hbusy : s.adcBusy with
    | true => exact .inl rfl
    | false => exact .inr (.inr (.inr ⟨rfl, rfl, rfl⟩))

theorem State.conv1Step_cases (s : State) :
    (s.cfg.debounceMs ≠ 0 ∧ s.conv1Step = s.await s.cfg.debounceMs .gkDebounce) ∨
      (s.cfg.debounceMs = 0 ∧ s.conv1Step = s.secondConversion) :=
  (eq_or_ne s.cfg.debounceMs 0).symm.imp (fun h => ⟨h, State.conv1Step_debounce h⟩)
    fun h => ⟨h, State.conv1Step_straight_on h⟩

theorem State.conv2Step_cases (s : State) :
    (s.s1 ≠ s.adcData ∧ s.conv2Step = { s with s2 := s.adcData }.firstConversion) ∨
      (s.s1 = s.adcData ∧ s.conv2Step = { s with s2 := s.adcData, key := classify s.cfg s.adcData }.respond .ok
        (classify s.cfg s.adcData)) :=
  (eq_or_ne s.s1 s.adcData).symm.imp (fun h => ⟨h, State.conv2Step_retry h⟩) fun h => ⟨h, State.conv2Step_key h⟩

/-! ### The accept steps of PLAY and SLEEP (41 R101, R104) -/

/-- Everything PLAY's accept step can be, with the steps it wrote known to fit. -/
theorem exec_play_fit_cases {d a b : Half} (h : exec (.play d a b) s = .next t) :
    (d = 0 ∧ phaseStep s.cfg a ≤ s.cfg.stepMax ∧ phaseStep s.cfg b ≤ s.cfg.stepMax ∧
        t = (s.toneLoaded d a b).playComplete) ∨
      (d ≠ 0 ∧ phaseStep s.cfg a ≤ s.cfg.stepMax ∧ phaseStep s.cfg b ≤ s.cfg.stepMax ∧
        t = (s.toneLoaded d a b).await d .playWait) ∨ t = s.beginAccept.reject .range := by
  rcases Nat.lt_or_ge s.cfg.stepMax (phaseStep s.cfg a) with ha | ha
  · exact .inr (.inr (Host.Outcome.next.inj (h.symm.trans (exec_play_unfit (.inl ha)))))
  rcases Nat.lt_or_ge s.cfg.stepMax (phaseStep s.cfg b) with hb | hb
  · exact .inr (.inr (Host.Outcome.next.inj (h.symm.trans (exec_play_unfit (.inr hb)))))
  obtain ⟨hd, ht⟩ | ⟨hd, ht⟩ | ht := exec_play_cases h
  · exact .inl ⟨hd, ha, hb, ht⟩
  · exact .inr (.inl ⟨hd, ha, hb, ht⟩)
  · exact .inr (.inr ht)

/-- Everything SLEEP's accept step can be. -/
theorem exec_sleep_cases {m : Half} (h : exec (.sleep m) s = .next t) :
    (m = 0 ∧ t = { s.beginAccept with n := 0 }.respond .ok 0) ∨ (m ≠ 0 ∧ t = s.beginAccept.await m .sleepWait) := by
  rcases eq_or_ne m 0 with rfl | hm
  · exact .inl ⟨rfl, (Host.Outcome.next.inj (exec_sleep_zero.symm.trans h)).symm⟩
  · exact .inr ⟨hm, (Host.Outcome.next.inj ((exec_sleep_wait hm).symm.trans h)).symm⟩

end Sys2Proof.Machine
end

section
/-! The invariant of the machine, kept by every step (spec 10_state R12 to R27, 41 R102, 42 R123, 43 R141, 60 R204):
obligations O54 and O55. -/

namespace Sys2Proof.Machine

variable {s t : State}

/-- An operand that is not 0 is at least 1. -/
theorem half_pos_of_ne_zero {x : Half} (h : x ≠ 0) : 1 ≤ x.toNat :=
  Nat.one_le_iff_ne_zero.2 fun h0 => h (BitVec.eq_of_toNat_eq h0)

/-! ### The two parts of the invariant -/

/-- The clauses of the invariant that give registers their ranges, whatever the sequencer does. -/
structure State.RangeInv (s : State) : Prop where
  phaseA_lt : s.phaseA < s.cfg.tls
  phaseB_lt : s.phaseB < s.cfg.tls
  stepA_le : s.stepA ≤ s.cfg.stepMax
  stepB_le : s.stepB ≤ s.cfg.stepMax
  tickCnt_lt : s.tickCnt < s.cfg.ticksPerMs
  lpCnt_pos : 1 ≤ s.lpCnt.toNat
  lpCnt_le : s.lpCnt.toNat ≤ s.cfg.longpressTime.toNat
  disarmed_cnt : s.lpArmed = false → s.lpCnt = s.cfg.longpressTime
  disarmed_flag : s.lpArmed = false → s.lpFlag = false
  gate_open : s.tmask = false → s.tpend = false
  key_le : s.key.toNat ≤ 13
  err_le : s.respErr.toNat ≤ 2
  val_zero : s.respErr ≠ 0 → s.respVal = 0

/-- The clauses of the invariant that tie registers to SEQ, but for OUT_EN (`step_outEn_iff`). -/
structure State.SeqInv (s : State) : Prop where
  wait_pos : s.seq.isWait = true → 1 ≤ s.n.toNat
  busy_seq : s.adcBusy = true → s.seq = .gkConv1 ∨ s.seq = .gkConv2
  latched : s.seq = .gkConv2 → s.adcBusy = true → s.s1 = s.adcData
  no_resp : s.seq ≠ .idle → s.respValid = false

theorem State.inv_iff : s.Inv ↔ s.RangeInv ∧ (s.outEn = true ↔ s.seq = .playWait) ∧ s.SeqInv :=
  ⟨fun h => ⟨{ h with }, h.outEn_iff, { h with }⟩, fun ⟨hr, ho, hs⟩ => { hr, hs with outEn_iff := ho }⟩

/-! ### The ranges (R10 to R21, R25, R27) -/

theorem advance_lt (c : Config) {p step : Nat} (hp : p < c.tls) (hstep : step ≤ c.stepMax) :
    advance c p step < c.tls := by
  have htls := c.tls_pos
  simp only [Params.stepMax] at hstep
  unfold advance
  split <;> omega

theorem tickStep_phases_lt (hA : s.phaseA < s.cfg.tls) (hB : s.phaseB < s.cfg.tls) (hsA : s.stepA ≤ s.cfg.stepMax)
    (hsB : s.stepB ≤ s.cfg.stepMax) : s.tickStep.phaseA < s.cfg.tls ∧ s.tickStep.phaseB < s.cfg.tls := by
  rw [State.tickStep_phaseA, State.tickStep_phaseB]
  split
  · exact ⟨advance_lt s.cfg hA hsA, advance_lt s.cfg hB hsB⟩
  · exact ⟨hA, hB⟩

theorem tickStep_lpCnt_range (hpos : 1 ≤ s.lpCnt.toNat) (hle : s.lpCnt.toNat ≤ s.cfg.longpressTime.toNat) :
    1 ≤ s.tickStep.lpCnt.toNat ∧ s.tickStep.lpCnt.toNat ≤ s.cfg.longpressTime.toNat := by
  have hlt := s.cfg.longpress_pos
  have hpred := half_pred s.lpCnt hpos
  rw [State.tickStep_lpCnt]
  split
  · split
    · exact ⟨hlt, le_rfl⟩
    case isFalse hgo =>
      have hne : (s.lpCnt - 1).toNat ≠ 0 := fun h => hgo (BitVec.eq_of_toNat_eq h)
      omega
  · exact ⟨hpos, hle⟩

theorem classify_toNat_le (c : Config) (r : Byte) : (classify c r).toNat ≤ 13 := (classifyByBands c r).2.2.2

namespace State.RangeInv

theorem tickStep (h : s.RangeInv) : s.tickStep.RangeInv := by
  obtain ⟨hA, hB⟩ := tickStep_phases_lt h.phaseA_lt h.phaseB_lt h.stepA_le h.stepB_le
  obtain ⟨hpos, hle⟩ := tickStep_lpCnt_range h.lpCnt_pos h.lpCnt_le
  have hK := s.cfg.ticksPerMs_pos
  have htick := h.tickCnt_lt
  constructor
  case phaseA_lt => simpa using hA
  case phaseB_lt => simpa using hB
  case stepA_le => simpa using h.stepA_le
  case stepB_le => simpa using h.stepB_le
  case tickCnt_lt => rw [State.tickStep_tickCnt, State.tickStep_cfg]; split <;> omega
  case lpCnt_pos => exact hpos
  case lpCnt_le => simpa using hle
  case disarmed_cnt =>
    intro hoff
    have hoff : s.lpArmed = false := by simpa using hoff
    simpa [State.tickStep_lpCnt, hoff] using h.disarmed_cnt hoff
  case disarmed_flag =>
    intro hoff
    have hoff : s.lpArmed = false := by simpa using hoff
    simpa [State.tickStep_lpFlag, hoff] using h.disarmed_flag hoff
  case gate_open => simpa using h.gate_open
  case key_le => simpa using h.key_le
  case err_le => simpa [State.respErr] using h.err_le
  case val_zero => simpa [State.respErr, State.respVal] using h.val_zero

theorem tickEvent (h : s.RangeInv) : s.tickEvent.RangeInv := by
  unfold State.tickEvent
  split
  case isTrue hmask => exact { h with gate_open := fun hopen => absurd hmask (by simpa using hopen) }
  case isFalse => exact h.tickStep

theorem openGate (h : s.RangeInv) : s.openGate.RangeInv := by
  unfold State.openGate
  split
  · exact RangeInv.tickStep { h with gate_open := fun _ => rfl }
  case isFalse hpend => exact { h with gate_open := fun _ => by simpa using hpend }

theorem respond (h : s.RangeInv) {e : Err} {v : Byte} (hv : e.code ≠ 0 → v = 0) : (s.respond e v).RangeInv :=
  { h with
    err_le := by cases e <;> simp
    val_zero := by simpa using hv }

theorem respond_ok (h : s.RangeInv) (v : Byte) : (s.respond .ok v).RangeInv := h.respond (absurd rfl)

theorem playComplete (h : s.RangeInv) : s.playComplete.RangeInv := respond_ok (s := s.disableOutput) { h with } 0

theorem reject (h : s.RangeInv) (e : Err) : (s.beginAccept.reject e).RangeInv :=
  RangeInv.respond (s := s.beginAccept) { h with } fun _ => rfl

theorem setLp (h : s.RangeInv) (armed : Bool) : (s.beginAccept.setLp armed s.cfg.longpressTime false).RangeInv :=
  { h with
    lpCnt_pos := s.cfg.longpress_pos
    lpCnt_le := le_rfl
    disarmed_cnt := fun _ => rfl
    disarmed_flag := fun _ => rfl }

theorem clearLp (h : s.RangeInv) : (s.beginAccept.setLp s.lpArmed s.lpCnt false).RangeInv :=
  { h with disarmed_flag := fun _ => rfl }

theorem closeGate (h : s.RangeInv) : (s.beginAccept.setGate true s.tpend).RangeInv :=
  { h with gate_open := nofun }

theorem toneLoaded (h : s.RangeInv) (d : Half) {a b : Half} (ha : phaseStep s.cfg a ≤ s.cfg.stepMax)
    (hb : phaseStep s.cfg b ≤ s.cfg.stepMax) : (s.toneLoaded d a b).RangeInv :=
  { h with
    phaseA_lt := s.cfg.tls_pos
    phaseB_lt := s.cfg.tls_pos
    stepA_le := ha
    stepB_le := show stepForB s.cfg a b ≤ s.cfg.stepMax by unfold stepForB; split <;> assumption }

theorem waitOver (h : s.RangeInv) : s.waitOver.RangeInv := by
  unfold State.waitOver
  split
  · exact h.playComplete
  · exact h.respond_ok 0
  · exact { h with }
  · exact h

theorem poll (h : s.RangeInv) : s.poll.RangeInv := by
  have hdown : s.countDown.RangeInv := { h with }
  unfold State.poll
  split
  · exact hdown.waitOver
  · exact hdown

theorem conv1Step (h : s.RangeInv) : s.conv1Step.RangeInv := by
  unfold State.conv1Step
  split <;> exact { h with }

theorem conv2Step (h : s.RangeInv) : s.conv2Step.RangeInv := by
  unfold State.conv2Step
  split
  · exact respond_ok (s := { s with s2 := s.adcData, key := classify s.cfg s.adcData })
      { h with key_le := classify_toNat_le s.cfg s.adcData } _
  · exact { h with }

theorem seqTurn (h : s.RangeInv) : s.seqTurn.RangeInv := by
  obtain hp | ⟨-, -, hp⟩ | ⟨-, -, hp⟩ | ⟨-, -, hp⟩ := s.seqTurn_cases <;> rw [hp]
  exacts [h, h.poll, h.conv1Step, h.conv2Step]

theorem adcDone (h : s.RangeInv) (v : Byte) : (s.adcDone v).RangeInv := by
  unfold State.adcDone
  split
  · exact { h with }
  · exact h

theorem taken (h : s.RangeInv) : s.quiet.consume.RangeInv := by
  unfold State.consume
  split <;> exact { h with }

theorem ofConfig (c : Config) : (State.ofConfig c).RangeInv where
  phaseA_lt := c.tls_pos
  phaseB_lt := c.tls_pos
  stepA_le := Nat.zero_le _
  stepB_le := Nat.zero_le _
  tickCnt_lt := c.ticksPerMs_pos
  lpCnt_pos := c.longpress_pos
  lpCnt_le := le_rfl
  disarmed_cnt := fun _ => rfl
  disarmed_flag := fun _ => rfl
  gate_open := fun _ => rfl
  key_le := Nat.zero_le _
  err_le := by simp [State.respErr, State.ofConfig]
  val_zero := fun _ => rfl

theorem resetBlock (s : State) : s.resetBlock.RangeInv := { ofConfig s.cfg with }

end State.RangeInv

/-- Every accept step keeps the ranges. -/
theorem exec_rangeInv {i : Instr} (h : s.RangeInv) (hexec : exec i s = .next t) : t.RangeInv := by
  cases i with
  | play d a b =>
    obtain ⟨-, ha, hb, rfl⟩ | ⟨-, ha, hb, rfl⟩ | rfl := exec_play_fit_cases hexec
    · exact (h.toneLoaded d ha hb).playComplete
    · exact { h.toneLoaded d ha hb with }
    · exact h.reject .range
  | sleep m =>
    obtain ⟨-, rfl⟩ | ⟨-, rfl⟩ := exec_sleep_cases hexec
    · exact State.RangeInv.respond_ok (s := { s.beginAccept with n := 0 }) { h with } 0
    · exact { h with }
  | getkey => cases hexec; exact { h with }
  | arm | disarm => cases hexec; exact (h.setLp _).respond_ok 0
  | lptake => cases hexec; exact h.clearLp.respond_ok _
  | tmask => cases hexec; exact h.closeGate.respond_ok 0
  | tunmask => cases hexec; exact (State.RangeInv.openGate (s := s.beginAccept) { h with }).respond_ok 0
  | stat => cases hexec; exact State.RangeInv.respond_ok (s := s.beginAccept) { h with } _

/-- Every step keeps the ranges. -/
theorem step_rangeInv (h : s.RangeInv) (hstep : step s = .next t) : t.RangeInv := by
  have htaken := h.taken
  cases stepCase_of_step hstep with
  | poll => exact State.RangeInv.poll { h with }
  | tick => exact htaken.tickEvent
  | adcDone v => exact htaken.adcDone v
  | accept w i t hnext hidle hdecode hexec => exact exec_rangeInv htaken hexec
  | reject => exact htaken.reject .illegal
  | dropped | response => exact htaken
  | turn => exact htaken.seqTurn
  | reset => exact State.RangeInv.resetBlock _

/-! ### The registers tied to SEQ (R22, R23, R26, R27, 42 R123) -/

namespace State.SeqInv

/-- A conversion runs only in the two conversion states. -/
theorem not_busy (h : s.SeqInv) (h1 : s.seq ≠ .gkConv1) (h2 : s.seq ≠ .gkConv2) : s.adcBusy = false := by
  cases hbusy : s.adcBusy with
  | false => rfl
  | true => exact absurd (h.busy_seq hbusy) (not_or.2 ⟨h1, h2⟩)

theorem not_busy_wait (h : s.SeqInv) (hwait : s.seq.isWait = true) : s.adcBusy = false :=
  h.not_busy (by rintro hs; simp [hs, Seq.isWait] at hwait) (by rintro hs; simp [hs, Seq.isWait] at hwait)

/-- In IDLE the invariant asks only that no conversion runs. -/
theorem of_idle (hs : s.seq = .idle) (hbusy : s.adcBusy = false) : s.SeqInv where
  wait_pos := by simp [hs, Seq.isWait]
  busy_seq := by simp [hbusy]
  latched := by simp [hbusy]
  no_resp := by simp [hs]

/-- Where no conversion runs and there is no response, it asks only for a count. -/
theorem of_wait (hn : 1 ≤ s.n.toNat) (hbusy : s.adcBusy = false)
    (hresp : s.respValid = false) : s.SeqInv where
  wait_pos := fun _ => hn
  busy_seq := by simp [hbusy]
  latched := by simp [hbusy]
  no_resp := fun _ => hresp

/-- A step that leaves the registers named here keeps the clauses. -/
theorem congr (h : s.SeqInv) (hs : t.seq = s.seq := by simp) (hn : t.n = s.n := by simp)
    (hbusy : t.adcBusy = s.adcBusy := by simp) (hs1 : t.s1 = s.s1 := by simp)
    (hdata : t.adcData = s.adcData := by simp) (hresp : t.respValid = s.respValid := by simp) : t.SeqInv := by
  constructor
  · rw [hs, hn]; exact h.wait_pos
  · rw [hs, hbusy]; exact h.busy_seq
  · rw [hs, hbusy, hs1, hdata]; exact h.latched
  · rw [hs, hresp]; exact h.no_resp

theorem taken (h : s.SeqInv) : s.quiet.consume.SeqInv := h.congr

theorem tickEvent (h : s.SeqInv) : s.tickEvent.SeqInv := h.congr

theorem firstConversion (hresp : s.respValid = false) : s.firstConversion.SeqInv where
  wait_pos := nofun
  busy_seq := fun _ => .inl rfl
  latched := nofun
  no_resp := fun _ => hresp

theorem secondConversion (hresp : s.respValid = false) : s.secondConversion.SeqInv where
  wait_pos := nofun
  busy_seq := fun _ => .inr rfl
  latched := fun _ _ => rfl
  no_resp := fun _ => hresp

theorem poll (h : s.SeqInv) (hwait : s.seq.isWait = true) : s.poll.SeqInv := by
  have hbusy := h.not_busy_wait hwait
  have hresp : s.respValid = false := h.no_resp (not_idle_of_isWait hwait)
  obtain ⟨hn, hp⟩ | ⟨-, ⟨-, hp⟩ | ⟨-, hp⟩ | ⟨-, hp⟩⟩ := State.poll_cases hwait <;> rw [hp]
  · have hpos := h.wait_pos hwait
    have hpred := half_pred s.n hpos
    have hne : s.n.toNat ≠ 1 := fun h1 => hn (BitVec.eq_of_toNat_eq h1)
    exact of_wait (by simp only [State.countDown_n]; omega) hbusy hresp
  · exact of_idle rfl hbusy
  · exact of_idle rfl hbusy
  · exact secondConversion hresp

theorem conv1Step (hbusy : s.adcBusy = false) (hresp : s.respValid = false) : s.conv1Step.SeqInv := by
  obtain ⟨hdeb, hp⟩ | ⟨-, hp⟩ := s.conv1Step_cases <;> rw [hp]
  · exact of_wait (half_pos_of_ne_zero hdeb) hbusy hresp
  · exact secondConversion hresp

theorem conv2Step (hbusy : s.adcBusy = false) (hresp : s.respValid = false) : s.conv2Step.SeqInv := by
  obtain ⟨-, hp⟩ | ⟨-, hp⟩ := s.conv2Step_cases <;> rw [hp]
  · exact firstConversion hresp
  · exact of_idle rfl hbusy

theorem seqTurn (h : s.SeqInv) : s.seqTurn.SeqInv := by
  obtain hp | ⟨hwait, -, hp⟩ | ⟨hs, hdone, hp⟩ | ⟨hs, hdone, hp⟩ := s.seqTurn_cases <;> rw [hp]
  · exact h
  · exact h.poll hwait
  · exact conv1Step hdone (h.no_resp (by simp [hs]))
  · exact conv2Step hdone (h.no_resp (by simp [hs]))

theorem adcDone (h : s.SeqInv) (v : Byte) : (s.adcDone v).SeqInv := by
  unfold State.adcDone
  split
  · exact { h with busy_seq := nofun, latched := nofun }
  · exact h

end State.SeqInv

/-- An accept step, which finds no conversion running, establishes the clauses. -/
theorem exec_seqInv {i : Instr} (hbusy : s.adcBusy = false) (hexec : exec i s = .next t) :
    t.SeqInv := by
  cases i with
  | play d a b =>
    obtain ⟨-, rfl⟩ | ⟨hd, rfl⟩ | rfl := exec_play_cases hexec
    · exact .of_idle rfl hbusy
    · exact .of_wait (half_pos_of_ne_zero hd) hbusy rfl
    · exact .of_idle rfl hbusy
  | sleep m =>
    obtain ⟨-, rfl⟩ | ⟨hm, rfl⟩ := exec_sleep_cases hexec
    · exact .of_idle rfl hbusy
    · exact .of_wait (half_pos_of_ne_zero hm) hbusy rfl
  | getkey => cases hexec; exact .firstConversion rfl
  | tunmask => cases hexec; exact .of_idle rfl (by simpa using hbusy)
  | arm | disarm | lptake | tmask | stat => cases hexec; exact .of_idle rfl hbusy

/-- Every step keeps the clauses. -/
theorem step_seqInv (h : s.SeqInv) (hstep : step s = .next t) : t.SeqInv := by
  have htaken := h.taken
  cases stepCase_of_step hstep with
  | poll hnext hpolls => exact State.SeqInv.poll { h with } (State.pollsFirst_iff.1 hpolls).1
  | tick => exact htaken.tickEvent
  | adcDone v => exact htaken.adcDone v
  | accept w i t hnext hidle hdecode hexec =>
    have hbusy : s.adcBusy = false := h.not_busy (by simp [hidle]) (by simp [hidle])
    exact exec_seqInv (by simpa using hbusy) hexec
  | reject w why hnext hidle => exact .of_idle rfl (by simpa using h.not_busy (by simp [hidle]) (by simp [hidle]))
  | dropped | response => exact htaken
  | turn => exact htaken.seqTurn
  | reset => exact .of_idle rfl rfl

/-! ### The invariant -/

/-- Every step keeps the invariant. -/
theorem State.Inv.step (h : s.Inv) (hstep : step s = .next t) : t.Inv := by
  obtain ⟨hrange, hout, hseq⟩ := State.inv_iff.1 h
  exact State.inv_iff.2 ⟨step_rangeInv hrange hstep, step_outEn_iff hout hstep, step_seqInv hseq hstep⟩

/-- The state right after reset meets it. -/
theorem State.Inv.ofConfig (c : Config) : (State.ofConfig c).Inv :=
  State.inv_iff.2 ⟨.ofConfig c, by simp [State.ofConfig], .of_idle rfl rfl⟩

/-- Settles O55: the ranges, OUT_EN and the clauses tied to SEQ, each kept by every case of a step. -/
theorem stepKeepsInvariant : Obligations.StepKeepsInvariant := by
  unfold Obligations.StepKeepsInvariant
  exact fun _ _ => State.Inv.step

/-- Settles O54: REF is one of the configurations. -/
theorem resetMeetsInvariant : Obligations.ResetMeetsInvariant := by
  unfold Obligations.ResetMeetsInvariant
  exact ⟨.ofConfig Config.ref, .ofConfig⟩

end Sys2Proof.Machine
end

section
/-! The long-press schedule after an ARM (spec 43 section 1, R146): obligation O4. -/

namespace Sys2Proof.Machine

variable {s t : State}

/-! ### Counters that run modulo a period -/

/-- A counter modulo `K` stands at its last value exactly before a multiple of `K`. -/
theorem mod_add_one_eq_iff_dvd {K x : Nat} (hK : 0 < K) : x % K + 1 = K ↔ K ∣ x + 1 := by
  have hlt : x % K < K := Nat.mod_lt x hK
  rw [Nat.dvd_iff_mod_eq_zero, ← Nat.mod_add_mod]
  constructor
  · intro h
    rw [h, Nat.mod_self]
  · intro h
    by_contra hne
    rw [Nat.mod_eq_of_lt (by omega)] at h
    omega

theorem succ_mod_of_dvd {K x : Nat} (h : K ∣ x + 1) : (x + 1) % K = 0 := Nat.mod_eq_zero_of_dvd h

theorem succ_mod_of_not_dvd {K x : Nat} (hK : 0 < K) (h : ¬K ∣ x + 1) : (x + 1) % K = x % K + 1 := by
  have hlt : x % K < K := Nat.mod_lt x hK
  have hne : x % K + 1 ≠ K := fun he => h ((mod_add_one_eq_iff_dvd hK).1 he)
  rw [← Nat.mod_add_mod, Nat.mod_eq_of_lt (by omega)]

/-! ### The countdown along tick steps (R85, R86) -/

theorem tickStep_iterate_clockWraps_iff_dvd (h : s.tickCnt < s.cfg.ticksPerMs) (m : Nat) :
    (State.tickStep^[m] s).clockWraps = true ↔ s.cfg.ticksPerMs ∣ s.tickCnt + m + 1 := by
  rw [State.clockWraps_iff, tickStep_iterate_cfg, tickStep_iterate_tickCnt h,
    mod_add_one_eq_iff_dvd s.cfg.ticksPerMs_pos]

/-- An armed countdown that starts at LONGPRESS_TIME runs modulo LONGPRESS_TIME over the milliseconds. -/
theorem tickStep_iterate_lpCnt (h : s.tickCnt < s.cfg.ticksPerMs) (harm : s.lpArmed = true)
    (hcnt : s.lpCnt = s.cfg.longpressTime) (m : Nat) :
    (State.tickStep^[m] s).lpCnt.toNat =
      s.cfg.longpressTime.toNat - (s.tickCnt + m) / s.cfg.ticksPerMs % s.cfg.longpressTime.toNat := by
  have hLT := s.cfg.longpress_pos
  induction m with
  | zero => rw [Nat.add_zero, Nat.div_eq_of_lt h, Nat.zero_mod, Nat.sub_zero, ← hcnt]; rfl
  | succ m ih =>
    have hwraps := tickStep_iterate_clockWraps_iff_dvd h m
    set u := State.tickStep^[m] s
    set q := (s.tickCnt + m) / s.cfg.ticksPerMs
    have hq : q % s.cfg.longpressTime.toNat < s.cfg.longpressTime.toNat := Nat.mod_lt _ hLT
    have hu : u.lpArmed = true := by simp [u, harm]
    have hpred := half_pred u.lpCnt (by omega)
    have hzero : u.lpCnt - 1 = 0 ↔ s.cfg.longpressTime.toNat ∣ q + 1 := by
      rw [← BitVec.toNat_inj, hpred, ← mod_add_one_eq_iff_dvd hLT, ih]
      change _ = 0 ↔ _
      omega
    rw [Function.iterate_succ_apply', State.tickStep_lpCnt, hu, Bool.and_true, ← Nat.add_assoc]
    by_cases hw : s.cfg.ticksPerMs ∣ s.tickCnt + m + 1
    · rw [if_pos (hwraps.2 hw), Nat.succ_div_of_dvd hw]
      by_cases hz : s.cfg.longpressTime.toNat ∣ q + 1
      · rw [if_pos (hzero.2 hz), succ_mod_of_dvd hz]
        simp
      · rw [if_neg (mt hzero.1 hz), hpred, succ_mod_of_not_dvd hLT hz, ih]
        omega
    · rw [if_neg (mt hwraps.1 hw), Nat.succ_div_of_not_dvd hw, ih]

/-- The tick step after `m` of them raises LP_FLAG exactly where a whole number of thresholds has gone by. -/
theorem tickStep_iterate_raises_iff (h : s.tickCnt < s.cfg.ticksPerMs) (harm : s.lpArmed = true)
    (hcnt : s.lpCnt = s.cfg.longpressTime) (m : Nat) :
    ({ State.tickStep^[m] s with lpFlag := false } : State).tickStep.lpFlag = true ↔
      s.cfg.ticksPerMs * s.cfg.longpressTime.toNat ∣ s.tickCnt + m + 1 := by
  have hLT := s.cfg.longpress_pos
  have hlp := tickStep_iterate_lpCnt h harm hcnt m
  have hflag : ({ State.tickStep^[m] s with lpFlag := false } : State).tickStep.lpFlag =
      ((State.tickStep^[m] s).clockWraps && (State.tickStep^[m] s).lpArmed &&
        (State.tickStep^[m] s).lpCnt - 1 == 0) := by
    rw [State.tickStep_lpFlag]
    exact Bool.or_false _
  have hone : (State.tickStep^[m] s).lpCnt = 1 ↔
      s.cfg.longpressTime.toNat ∣ (s.tickCnt + m) / s.cfg.ticksPerMs + 1 := by
    have hlt := Nat.mod_lt ((s.tickCnt + m) / s.cfg.ticksPerMs) hLT
    rw [← BitVec.toNat_inj, ← mod_add_one_eq_iff_dvd hLT, hlp]
    change _ = 1 ↔ _
    omega
  have hraise : ({ State.tickStep^[m] s with lpFlag := false } : State).tickStep.lpFlag = true ↔
      s.cfg.ticksPerMs ∣ s.tickCnt + m + 1 ∧
        s.cfg.longpressTime.toNat ∣ (s.tickCnt + m) / s.cfg.ticksPerMs + 1 := by
    rw [hflag, ← hone, ← tickStep_iterate_clockWraps_iff_dvd h m]
    simp [harm]
  rw [hraise]
  constructor
  · rintro ⟨hK, hL⟩
    rwa [← Nat.succ_div_of_dvd hK, Nat.dvd_div_iff_mul_dvd hK] at hL
  · intro hKL
    have hK : s.cfg.ticksPerMs ∣ s.tickCnt + m + 1 := dvd_of_mul_right_dvd hKL
    rw [← Nat.succ_div_of_dvd hK, Nat.dvd_div_iff_mul_dvd hK]
    exact ⟨hK, hKL⟩

/-- The positive multiples of `K * L`, counted from a counter that stands at `c`. -/
theorem mul_dvd_iff_schedule {K L c m : Nat} (hc : c < K) (hL : 1 ≤ L) :
    K * L ∣ c + m + 1 ↔ ∃ j, m + 1 = (K - c) + (L - 1) * K + j * L * K := by
  obtain ⟨l, rfl⟩ : ∃ l, L = l + 1 := ⟨L - 1, by omega⟩
  have hmul (j : Nat) : K * (l + 1) * (j + 1) = K + l * K + j * (l + 1) * K := by ring
  constructor
  · rintro ⟨k, hk⟩
    obtain ⟨j, rfl⟩ : ∃ j, k = j + 1 := ⟨k - 1, by cases k <;> simp_all⟩
    rw [hmul] at hk
    exact ⟨j, by rw [Nat.add_sub_cancel]; omega⟩
  · rintro ⟨j, hj⟩
    rw [Nat.add_sub_cancel] at hj
    exact ⟨j + 1, by rw [hmul]; omega⟩

/-- Settles O4: LP_CNT counts milliseconds modulo LONGPRESS_TIME from the ARM on, so the raises are where the ticks
counted fill a multiple of LONGPRESS_TIME milliseconds. -/
theorem longPressSchedule : Obligations.LongPressSchedule := by
  unfold Obligations.LongPressSchedule
  intro s t hlt hexec m
  rw [exec_arm] at hexec
  cases hexec
  have hraises := tickStep_iterate_raises_iff
    (s := (s.beginAccept.setLp true s.cfg.longpressTime false).respond .ok 0) hlt rfl rfl m
  exact hraises.trans (mul_dvd_iff_schedule hlt s.cfg.longpress_pos)

end Sys2Proof.Machine
end

section
/-! PLAY's steps, the phases and the samples of a tone (spec 40_tick_step R82, R87, 41 R100, R107): obligations O16,
O19, O29 and O34. -/

namespace Sys2Proof.Machine

variable {s t : State}

/-! ### step(f) (R100) -/

theorem phaseStep_zero (c : Config) : phaseStep c 0 = 0 := by
  have hF := c.fTick_pos
  have hzero : phaseStep c 0 = (0 * c.tls + c.fTick / 2) / c.fTick := rfl
  rw [hzero, Nat.zero_mul, Nat.zero_add]
  exact Nat.div_eq_of_lt (Nat.div_lt_self hF (by decide))

/-- A higher frequency has no smaller step. -/
theorem phaseStep_mono (c : Config) {f g : Half} (h : f.toNat ≤ g.toNat) : phaseStep c f ≤ phaseStep c g :=
  Nat.div_le_div_right (Nat.add_le_add_right (Nat.mul_le_mul_right _ h) _)

/-- The quotient is within half a unit of the exact one, above as well as below. -/
theorem phaseStep_bounds (c : Config) (f : Half) :
    2 * (phaseStep c f * c.fTick) ≤ 2 * (f.toNat * c.tls) + c.fTick ∧
      2 * (f.toNat * c.tls) < 2 * (phaseStep c f * c.fTick) + c.fTick + c.fTick % 2 := by
  have hF := c.fTick_pos
  have hle : phaseStep c f * c.fTick ≤ f.toNat * c.tls + c.fTick / 2 := Nat.div_mul_le_self _ _
  have hlt : f.toNat * c.tls + c.fTick / 2 < phaseStep c f * c.fTick + c.fTick := Nat.lt_div_mul_add hF
  omega

/-- Settles O16: the formula is the definition; a rounded quotient is within half a unit and grows with `f`. -/
theorem phaseStepRounds : Obligations.PhaseStepRounds := by
  unfold Obligations.PhaseStepRounds
  intro c f g
  obtain ⟨hlow, hhigh⟩ := phaseStep_bounds c f
  refine ⟨rfl, hlow, hhigh, phaseStep_zero c, fun hfg hg => ?_⟩
  simp only [representable, decide_eq_true_eq] at hg ⊢
  exact (phaseStep_mono c hfg).trans hg

/-! ### Mixing (R82) -/

/-- Settles O29: the two derived properties are the average of two equal samples and of two that add to `2 * MID`. -/
theorem mixingAverages : Obligations.MixingAverages := by
  unfold Obligations.MixingAverages
  refine fun c x y => ⟨mixSamples_toNat x y, mixSamples_self x, fun hsum => BitVec.eq_of_toNat_eq ?_⟩
  rw [mixSamples_toNat, hsum]
  omega

/-! ### The phases along tick steps (R83, R87) -/

/-- What one tick step leaves, any number of them leaves. -/
theorem tickStep_iterate_keeps {α : Type} (field : State → α) (h : ∀ s : State, field s.tickStep = field s) (s : State)
    (n : Nat) : field (State.tickStep^[n] s) = field s := by
  induction n with
  | zero => rfl
  | succ n ih => rw [Function.iterate_succ_apply', h, ih]

@[simp] theorem tickStep_iterate_stepA (s : State) (n : Nat) : (State.tickStep^[n] s).stepA = s.stepA :=
  tickStep_iterate_keeps State.stepA State.tickStep_stepA s n

@[simp] theorem tickStep_iterate_stepB (s : State) (n : Nat) : (State.tickStep^[n] s).stepB = s.stepB :=
  tickStep_iterate_keeps State.stepB State.tickStep_stepB s n

@[simp] theorem tickStep_iterate_outEn (s : State) (n : Nat) : (State.tickStep^[n] s).outEn = s.outEn :=
  tickStep_iterate_keeps State.outEn State.tickStep_outEn s n

/-- Settles O34: a tick step keeps both phases below TLS. -/
theorem phaseStaysBelowTls : Obligations.PhaseStaysBelowTls := by
  unfold Obligations.PhaseStaysBelowTls
  intro s hA hB hsA hsB n
  induction n with
  | zero => exact ⟨hA, hB⟩
  | succ n ih =>
    have h := tickStep_phases_lt (s := State.tickStep^[n] s) (by simpa using ih.1) (by simpa using ih.2)
      (by simpa using hsA) (by simpa using hsB)
    rw [tickStep_iterate_cfg] at h
    rwa [Function.iterate_succ_apply']

/-- `Advance` is addition modulo TLS. -/
theorem advance_eq_mod (c : Config) {p step : Nat} (hp : p < c.tls) (hstep : step < c.tls) :
    advance c p step = (p + step) % c.tls := by
  unfold advance
  split
  case isTrue hwrap => rw [Nat.mod_eq_sub_mod hwrap, Nat.mod_eq_of_lt (by omega)]
  case isFalse hgo => rw [Nat.mod_eq_of_lt (by omega)]

/-- From phase 0 on, `m` advances add up to `m * step` modulo TLS. -/
theorem advance_mul_mod (c : Config) (m : Nat) {step : Nat} (hstep : step < c.tls) :
    advance c (m * step % c.tls) step = (m + 1) * step % c.tls := by
  rw [advance_eq_mod c (Nat.mod_lt _ c.tls_pos) hstep, Nat.mod_add_mod, Nat.succ_mul]

theorem step_lt_tls (c : Config) {step : Nat} (h : step ≤ c.stepMax) : step < c.tls := by
  have htls := c.tls_pos
  simp only [Params.stepMax] at h
  omega

/-- The phases of a tone `m` tick steps after it began. -/
theorem tickStep_iterate_phases (hon : s.outEn = true) (hA : s.phaseA = 0) (hB : s.phaseB = 0)
    (hsA : s.stepA ≤ s.cfg.stepMax) (hsB : s.stepB ≤ s.cfg.stepMax) (m : Nat) :
    (State.tickStep^[m] s).phaseA = m * s.stepA % s.cfg.tls ∧
      (State.tickStep^[m] s).phaseB = m * s.stepB % s.cfg.tls := by
  induction m with
  | zero => simp [hA, hB]
  | succ m ih =>
    simp [Function.iterate_succ_apply', State.tickStep_phaseA, State.tickStep_phaseB, hon, ih,
      advance_mul_mod s.cfg m (step_lt_tls s.cfg hsA), advance_mul_mod s.cfg m (step_lt_tls s.cfg hsB)]

/-- Settles O19: the phases are multiples of the steps modulo TLS, and each tick step samples the table there. -/
theorem toneLevelTrace : Obligations.ToneLevelTrace := by
  unfold Obligations.ToneLevelTrace
  intro s t d a b hd ha hb hexec m
  rw [exec_play_fits ha hb, if_neg (by simpa using hd)] at hexec
  cases hexec
  have hsB : stepForB s.cfg a b ≤ s.cfg.stepMax := by unfold stepForB; split <;> assumption
  obtain ⟨hphaseA, hphaseB⟩ :=
    tickStep_iterate_phases (s := (s.toneLoaded d a b).await d .playWait) rfl rfl rfl ha hsB m
  set t := (s.toneLoaded d a b).await d .playWait
  have hcfg : (State.tickStep^[m] t).cfg = s.cfg := tickStep_iterate_cfg t m
  have hon : (State.tickStep^[m] t).outEn = true := tickStep_iterate_outEn t m
  obtain ⟨x, y, hx, hy, hlevel, hmid⟩ := tickSamplesBeforeAdvance (State.tickStep^[m] t) hon
    (by rw [hphaseA, hcfg]; exact Nat.mod_lt _ s.cfg.tls_pos)
    (by rw [hphaseB, hcfg]; exact Nat.mod_lt _ s.cfg.tls_pos)
  rw [hcfg, hphaseA] at hx
  rw [hcfg, hphaseB] at hy
  rw [← Function.iterate_succ_apply' State.tickStep m t] at hlevel hmid
  refine ⟨hphaseA, hphaseB, ⟨x, y, hx, hy, hlevel⟩, ?_⟩
  rintro rfl
  exact hmid rfl rfl

end Sys2Proof.Machine
end

section
/-! What an accept step may write, and the step on each move (spec 10_state R29, 30_encoding R67, 60_exceptions R216):
obligations O7, O8, O35 to O37, O45 to O48 and O51. -/

namespace Sys2Proof.Machine

variable {s t : State}

/-! ### STAT (R28, 43 R145) -/

/-- The bits of the status byte. -/
theorem State.statByte_getLsbD (s : State) :
    s.statByte.getLsbD 0 = s.outEn ∧ s.statByte.getLsbD 1 = s.msFlag ∧ s.statByte.getLsbD 2 = s.lpArmed ∧
      s.statByte.getLsbD 3 = s.lpFlag ∧ s.statByte.getLsbD 4 = s.tmask ∧ s.statByte.getLsbD 5 = s.tpend ∧
      s.statByte.getLsbD 6 = false ∧ s.statByte.getLsbD 7 = false := by
  unfold State.statByte
  generalize s.outEn = b0, s.msFlag = b1, s.lpArmed = b2, s.lpFlag = b3, s.tmask = b4, s.tpend = b5
  revert b0 b1 b2 b3 b4 b5
  decide

theorem exec_stat (s : State) : exec .stat s = .next (s.beginAccept.respond .ok s.statByte) := rfl

/-- Settles O7: VAL is the status byte, and the step only responds. -/
theorem statReturnsFlags : Obligations.StatReturnsFlags := by
  unfold Obligations.StatReturnsFlags
  intro s
  obtain ⟨h0, h1, h2, h3, h4, h5, h6, h7⟩ := s.statByte_getLsbD
  refine ⟨_, exec_stat s, rfl, rfl, State.respond_respErr _ .ok _, ?_⟩
  rw [State.respond_respVal]
  exact ⟨h0, h1, h2, h3, h4, h5, h6, h7, State.sameButResponse_respond s .ok s.statByte⟩

/-! ### What an accept step may write (R29) -/

/-- Every command's accept step answers a next state. -/
theorem exec_answers (i : Instr) (s : State) : ∃ t, exec i s = .next t := by
  cases i with
  | play d a b =>
    rcases Nat.lt_or_ge s.cfg.stepMax (phaseStep s.cfg a) with ha | ha
    · exact ⟨_, exec_play_unfit (.inl ha)⟩
    rcases Nat.lt_or_ge s.cfg.stepMax (phaseStep s.cfg b) with hb | hb
    · exact ⟨_, exec_play_unfit (.inr hb)⟩
    rw [exec_play_fits ha hb]
    split <;> exact ⟨_, rfl⟩
  | sleep m =>
    rcases eq_or_ne m 0 with rfl | hm
    · exact ⟨_, exec_sleep_zero⟩
    · exact ⟨_, exec_sleep_wait hm⟩
  | getkey | arm | disarm | lptake | tmask | tunmask | stat => exact ⟨_, rfl⟩

theorem exec_cfg {i : Instr} (h : exec i s = .next t) : t.cfg = s.cfg := by
  cases i with
  | play d a b => obtain ⟨-, rfl⟩ | ⟨-, rfl⟩ | rfl := exec_play_cases h <;> rfl
  | sleep m => obtain ⟨-, rfl⟩ | ⟨-, rfl⟩ := exec_sleep_cases h <;> rfl
  | tunmask => cases h; simp
  | getkey | arm | disarm | lptake | tmask | stat => cases h; rfl

/-- LP_FLAG is written by LPTAKE, ARM and DISARM, LP_CNT by ARM and DISARM, the phases by PLAY; no accept step but
TUNMASK's writes any other register of the tick step, nor ADC_DATA. -/
structure AcceptWrites (i : Instr) (s t : State) : Prop where
  level : t.level = s.level
  tpend : t.tpend = s.tpend
  adcData : t.adcData = s.adcData
  lpFlag : t.lpFlag = s.lpFlag ∨ t.lpFlag = false ∧ (i = .lptake ∨ i = .arm ∨ i = .disarm)
  lpCnt : t.lpCnt = s.lpCnt ∨ t.lpCnt = s.cfg.longpressTime ∧ (i = .arm ∨ i = .disarm)
  phases : t.phaseA = s.phaseA ∧ t.phaseB = s.phaseB ∨ t.phaseA = 0 ∧ t.phaseB = 0 ∧ ∃ d a b, i = .play d a b

theorem exec_acceptWrites {i : Instr} (hi : i ≠ .tunmask) (h : exec i s = .next t) : AcceptWrites i s t := by
  cases i with
  | play d a b =>
    obtain ⟨-, rfl⟩ | ⟨-, rfl⟩ | rfl := exec_play_cases h
    · exact ⟨rfl, rfl, rfl, .inl rfl, .inl rfl, .inr ⟨rfl, rfl, d, a, b, rfl⟩⟩
    · exact ⟨rfl, rfl, rfl, .inl rfl, .inl rfl, .inr ⟨rfl, rfl, d, a, b, rfl⟩⟩
    · exact ⟨rfl, rfl, rfl, .inl rfl, .inl rfl, .inl ⟨rfl, rfl⟩⟩
  | sleep m =>
    obtain ⟨-, rfl⟩ | ⟨-, rfl⟩ := exec_sleep_cases h <;> exact ⟨rfl, rfl, rfl, .inl rfl, .inl rfl, .inl ⟨rfl, rfl⟩⟩
  | tunmask => exact absurd rfl hi
  | arm => cases h; exact ⟨rfl, rfl, rfl, .inr ⟨rfl, by simp⟩, .inr ⟨rfl, by simp⟩, .inl ⟨rfl, rfl⟩⟩
  | disarm => cases h; exact ⟨rfl, rfl, rfl, .inr ⟨rfl, by simp⟩, .inr ⟨rfl, by simp⟩, .inl ⟨rfl, rfl⟩⟩
  | lptake => cases h; exact ⟨rfl, rfl, rfl, .inr ⟨rfl, by simp⟩, .inl rfl, .inl ⟨rfl, rfl⟩⟩
  | getkey | tmask | stat => cases h; exact ⟨rfl, rfl, rfl, .inl rfl, .inl rfl, .inl ⟨rfl, rfl⟩⟩

/-! ### The tick gate (60_exceptions R204) -/

theorem State.tickEvent_open {s : State} (h : s.tmask = false) : s.tickEvent = s.tickStep := if_neg (by simp [h])

theorem State.tickEvent_tpend (s : State) : s.tickEvent.tpend = (s.tpend || s.tmask) := by
  cases hmask : s.tmask with
  | true => simp [State.tickEvent_closed hmask]
  | false => simp [State.tickEvent_open hmask]

theorem State.openGate_tpend (s : State) : s.openGate.tpend = false := by
  unfold State.openGate
  split
  · rw [State.tickStep_tpend]
  case isFalse hpend => simpa using hpend

/-- TPEND after a step: reset and TUNMASK clear it, a tick event at a closed gate sets it, nothing else writes it. -/
theorem step_tpend (h : step s = .next t) :
    t.tpend = s.tpend ∨
      (t.tpend = false ∧ (s.nextEvent = .reset ∨ ∃ w, s.nextEvent = .command w ∧ decode w = .instr .tunmask)) ∨
      (t.tpend = true ∧ s.nextEvent = .tick ∧ s.tmask = true) := by
  cases stepCase_of_step h with
  | poll | adcDone | reject | dropped | response | turn => exact .inl (by simp)
  | tick hnext =>
    rw [State.tickEvent_tpend]
    cases hmask : s.tmask with
    | true => exact .inr (.inr ⟨by simp [hmask], hnext, rfl⟩)
    | false => exact .inl (by simp [hmask])
  | accept w i t hnext _ hdecode hexec =>
    rcases eq_or_ne i .tunmask with rfl | hi
    · cases hexec
      exact .inr (.inl ⟨State.openGate_tpend _, .inr ⟨w, hnext, hdecode⟩⟩)
    · exact .inl (by simpa using (exec_acceptWrites hi hexec).tpend)
  | reset hnext => exact .inr (.inl ⟨rfl, .inl hnext⟩)

/-- Settles O8: the tick event by its gate, and TPEND by what may write it. -/
theorem tickEventGate : Obligations.TickEventGate := by
  unfold Obligations.TickEventGate
  refine ⟨fun s => ⟨State.tickEvent_open, State.tickEvent_closed⟩, fun s t h hset hclear => ?_,
    fun s t h hclear hset => ?_⟩
  · obtain hsame | ⟨-, hwhy⟩ | ⟨hpend, -⟩ := step_tpend h
    · simp [hsame, hset] at hclear
    · exact hwhy
    · simp [hpend] at hclear
  · obtain hsame | ⟨hpend, -⟩ | ⟨-, hwhy⟩ := step_tpend h
    · simp [hsame, hclear] at hset
    · simp [hpend] at hset
    · exact hwhy

/-! ### Ownership (10_state R29) -/

/-- Settles O35: no poll step goes before, so the step is the tick event, whose frame is the tick step's. -/
theorem tickEventOwnership : Obligations.TickEventOwnership := by
  unfold Obligations.TickEventOwnership
  intro s t hnext hpolls h
  rw [step_event fun _ => hpolls, hnext] at h
  cases h
  refine ⟨by simp, by simp, by simp [SameReadings], by simp [SameResp], by simp, by simp, by simp, by simp, by simp,
    by simp, by simp, by simp [State.tickEvent_tpend], fun hoff => ?_, by simp⟩
  cases hmask : s.quiet.consume.tmask with
  | true => simp [State.tickEvent_closed hmask]
  | false => simp [State.tickEvent_open hmask, State.tickStep_phaseA, State.tickStep_phaseB, hoff]

theorem State.poll_msFlag (s : State) : s.poll.msFlag = false := by
  unfold State.poll
  split <;> simp

/-- The sequencer's turn clears MS_FLAG in a poll step only. -/
theorem State.seqTurn_msFlag (s : State) :
    s.seqTurn.msFlag = s.msFlag ∨ s.seqTurn.msFlag = false ∧ s.seq.isWait = true := by
  obtain hp | ⟨hwait, -, hp⟩ | ⟨-, -, hp⟩ | ⟨-, -, hp⟩ := s.seqTurn_cases <;> rw [hp]
  · exact .inl rfl
  · exact .inr ⟨State.poll_msFlag s, hwait⟩
  · exact .inl s.conv1Step_msFlag
  · exact .inl s.conv2Step_msFlag

/-- Settles O36: the turn by its own frame, a word by what its accept step may write; a rejection only responds. -/
theorem sequencerOwnership : Obligations.SequencerOwnership := by
  unfold Obligations.SequencerOwnership
  intro s t h hwho
  cases stepCase_of_step h with
  | poll hnext | tick hnext | adcDone v hnext | response hnext | reset hnext => simp [hnext] at hwho
  | turn hnext =>
    have hms : s.quiet.consume.seqTurn.msFlag = s.msFlag ∨
        s.quiet.consume.seqTurn.msFlag = false ∧ s.nextEvent = .seqTurn ∧ s.seq.isWait = true := by
      simpa [hnext] using s.quiet.consume.seqTurn_msFlag
    exact ⟨by simp, by simp, by simp, by simp, hms, .inl (by simp), .inl (by simp), .inl (by simp)⟩
  | dropped | reject =>
    exact ⟨by simp, by simp, by simp, by simp, .inl (by simp), .inl (by simp), .inl (by simp), .inl (by simp)⟩
  | accept w i t hnext _ hdecode hexec =>
    have hi : i ≠ .tunmask := by
      rintro rfl
      obtain hturn | ⟨w', hw', hne⟩ := hwho
      · simp [hnext] at hturn
      · obtain rfl : w = w' := by simpa [hnext] using hw'
        exact hne hdecode
    obtain ⟨htick, hms⟩ := exec_sameClock hi hexec
    have hw := exec_acceptWrites hi hexec
    refine ⟨by simpa using hw.level, by simpa using htick, by simpa using hw.tpend, by simpa using hw.adcData,
      .inl (by simpa using hms), ?_, ?_, ?_⟩
    · exact hw.lpFlag.imp (by simp) fun ⟨hclear, hwhich⟩ =>
        ⟨hclear, w, hnext, by simpa [hdecode] using hwhich⟩
    · exact hw.lpCnt.imp (by simp) fun ⟨hload, hwhich⟩ =>
        ⟨by simpa using hload, w, hnext, by simpa [hdecode] using hwhich⟩
    · exact hw.phases.imp (by simp) fun ⟨hA, hB, d, a, b, hplay⟩ =>
        ⟨hA, hB, w, d, a, b, hnext, by rw [hdecode, hplay]⟩

/-- A completion writes ADC_BUSY and ADC_DATA, and only where a conversion runs. -/
theorem State.adcDone_writes (s : State) (v : Byte) :
    (s.adcDone v).adcBusy = false ∧ (s.adcDone v).adcData = if s.adcBusy then v else s.adcData := by
  cases hbusy : s.adcBusy <;> simp [State.adcDone, hbusy]

/-- Settles O37: the frame of a completion. -/
theorem adcOwnership : Obligations.AdcOwnership := by
  unfold Obligations.AdcOwnership
  intro s t v hnext h
  rw [step_event (by simp [hnext]), hnext] at h
  cases h
  obtain ⟨hbusy, hdata⟩ := s.quiet.consume.adcDone_writes v
  refine ⟨?_, ?_, ?_, ?_, ?_, by simp, by simp, ?_, ?_, by simp, hbusy, by simpa using hdata⟩ <;>
    simp [SameOsc, SameOutput, SameClock, SameLongPress, SameGate, SameReadings, SameResp]

/-- Settles O51: no case of a step writes the configuration. -/
theorem configurationNeverChanges : Obligations.ConfigurationNeverChanges := by
  unfold Obligations.ConfigurationNeverChanges
  intro s t h
  cases stepCase_of_step h with
  | accept w i t _ _ _ hexec => simpa using exec_cfg hexec
  | poll | tick | adcDone | reject | dropped | response | turn | reset => simp

/-! ### The step on each move (00_scope R3, 20_memory R54, 60_exceptions R216) -/

/-- The state a listed move acts on. -/
theorem State.taken_cons {e : Event} {rest : List Event} (h : s.inputs = e :: rest) :
    s.quiet.consume = { s with inputs := rest, adcStartOut := false } := by
  simp [State.consume, State.quiet, h]

/-- The state a drawn move acts on. -/
theorem State.taken_nil (h : s.inputs = []) :
    s.quiet.consume = { s with draws := s.draws + 1, adcStartOut := false } := by
  simp [State.consume, State.quiet, h]

/-- The step on a listed move that no poll step goes before. -/
theorem step_listed {e : Event} {rest : List Event} (h : s.inputs = e :: rest)
    (hpolls : e = .tick → s.pollsFirst = false) :
    step s = onEvent e { s with inputs := rest, adcStartOut := false } := by
  have hnext : s.nextEvent = e := State.nextEvent_cons h
  rw [step_event (by rwa [hnext]), hnext, State.taken_cons h]

/-- The step where guarantee (c) puts the poll step first. -/
theorem step_poll (hnext : s.nextEvent = .tick) (hpolls : s.pollsFirst = true) : step s = .next s.quiet.poll :=
  if_pos (by simp [hnext, hpolls])

theorem acceptWord_instr {w : CmdWord} {i : Instr} (h : decode w = .instr i) : acceptWord w s = exec i s := by
  rw [acceptWord, h]

/-- Settles O45: the presented word is transferred, decoded and executed. -/
theorem stepRunsDecoded : Obligations.StepRunsDecoded := by
  unfold Obligations.StepRunsDecoded
  intro s w rest i hinputs hidle hdecode
  have hready : ({ s with inputs := rest, adcStartOut := false } : State).seq = .idle := hidle
  rw [step_listed hinputs nofun, onEvent, presentWord_idle hready, acceptWord_instr hdecode]

/-- Settles O46: each move's own effect, on the state with the move taken. -/
theorem stepTakesMove : Obligations.StepTakesMove := by
  unfold Obligations.StepTakesMove
  refine ⟨fun s e rest hinputs => ⟨?_, ?_, ?_, ?_⟩, fun s hinputs hpolls => ?_⟩
  · rintro rfl hpolls
    exact step_listed hinputs fun _ => hpolls
  · rintro v rfl
    exact step_listed hinputs nofun
  · rintro rfl
    exact step_listed hinputs nofun
  · rintro rfl
    exact step_listed hinputs nofun
  · have hnext : s.nextEvent = Config.freeEvent s.draws := by simp [State.nextEvent, hinputs]
    rw [step_event (by rwa [hnext]), hnext, State.taken_nil hinputs]

/-- Settles O47: the step is the poll step, which takes no move off. -/
theorem pollGoesBeforeRaise : Obligations.PollGoesBeforeRaise := by
  unfold Obligations.PollGoesBeforeRaise
  intro s hnext hwait hms hmask hlast
  have hturn : s.quiet.seqTurn = s.quiet.poll := by
    rw [State.seqTurn_wait (by simpa using hwait), if_pos (by simpa using hms)]
  change step s = .next s.quiet.seqTurn ∧ s.quiet.seqTurn.nextEvent = .tick ∧ s.quiet.seqTurn.inputs = s.inputs ∧
    s.quiet.seqTurn.draws = s.draws ∧ s.quiet.seqTurn.msFlag = false
  rw [hturn]
  refine ⟨step_poll hnext (State.pollsFirst_iff.2 ⟨hwait, hms, hmask, hlast⟩), ?_, by simp, by simp,
    State.poll_msFlag _⟩
  simpa [State.nextEvent] using hnext

/-- Settles O48: the poll step, a move's own effect and every command's accept step answer a next state. -/
theorem everyStateSteps : Obligations.EveryStateSteps := by
  unfold Obligations.EveryStateSteps
  intro s
  by_cases hpolls : s.nextEvent = .tick ∧ s.pollsFirst = true
  · exact ⟨_, step_poll hpolls.1 hpolls.2⟩
  rw [step_event (by simpa using hpolls)]
  cases s.nextEvent with
  | tick | adcDone v | takeResponse | seqTurn | reset => exact ⟨_, rfl⟩
  | command w =>
    rw [onEvent, presentWord]
    split
    · rw [acceptWord]
      split
      · exact exec_answers _ _
      · exact ⟨_, rfl⟩
    · exact ⟨_, rfl⟩

end Sys2Proof.Machine
end

section
/-! A command in progress: what can end it, and the transitions of SEQ (spec 41 R106, R108): obligations O17 and O18. -/

namespace Sys2Proof.Machine

variable {s t : State}

/-! ### The rows of the transition table (R108) -/

/-- SEQ may stay where it is. -/
theorem State.seqRule_self (s : State) : s.seqRule s.seq := by
  cases hs : s.seq <;> simp [State.seqRule, hs]

theorem State.poll_seqRule (hwait : s.seq.isWait = true) (hms : s.msFlag = true) : s.seqRule s.poll.seq := by
  obtain ⟨-, h⟩ | ⟨hn, ⟨hs, h⟩ | ⟨hs, h⟩ | ⟨hs, h⟩⟩ := State.poll_cases hwait
  · rw [h]; exact s.seqRule_self
  all_goals simpa [h, State.seqRule, hs] using ⟨hms, hn⟩

theorem State.seqTurn_seqRule (s : State) : s.seqRule s.seqTurn.seq := by
  obtain h | ⟨hwait, hms, h⟩ | ⟨hs, hdone, h⟩ | ⟨hs, hdone, h⟩ := s.seqTurn_cases
  · rw [h]; exact s.seqRule_self
  · rw [h]; exact State.poll_seqRule hwait hms
  · rw [h]
    obtain ⟨hdeb, h⟩ | ⟨hdeb, h⟩ := s.conv1Step_cases
    · rw [h]
      simpa [State.seqRule, hs] using ⟨hdone, half_pos_of_ne_zero hdeb⟩
    · rw [h]
      simpa [State.seqRule, hs] using ⟨hdone, hdeb⟩
  · rw [h]
    obtain ⟨hread, h⟩ | ⟨hread, h⟩ := s.conv2Step_cases
    all_goals simpa [h, State.seqRule, hs] using ⟨hdone, hread⟩

/-- The rows of a command in progress do not look at the moves. -/
theorem State.seqRule_taken {q : Seq} (hbusy : s.seq ≠ .idle) (h : s.quiet.consume.seqRule q) : s.seqRule q := by
  cases hs : s.seq with
  | idle => exact absurd hs hbusy
  | playWait | sleepWait | gkConv1 | gkDebounce | gkConv2 => cases q <;> simp_all [State.seqRule]

/-- The row of each accept step. -/
theorem exec_seqRule {w : CmdWord} {i : Instr} (hnext : s.nextEvent = .command w) (hidle : s.seq = .idle)
    (hdecode : decode w = .instr i) (hexec : exec i s.quiet.consume = .next t) : s.seqRule t.seq := by
  cases i with
  | play d a b =>
    obtain ⟨-, -, -, rfl⟩ | ⟨hd, ha, hb, rfl⟩ | rfl := exec_play_fit_cases hexec
    · simp [State.seqRule, hidle]
    · simpa [State.seqRule, hidle] using
        ⟨w, hnext, d, a, b, hdecode, half_pos_of_ne_zero hd, by simpa using ha, by simpa using hb⟩
    · simp [State.seqRule, hidle]
  | sleep m =>
    obtain ⟨-, rfl⟩ | ⟨hm, rfl⟩ := exec_sleep_cases hexec
    · simp [State.seqRule, hidle]
    · simpa [State.seqRule, hidle] using ⟨w, hnext, m, hdecode, half_pos_of_ne_zero hm⟩
  | getkey =>
    cases hexec
    simpa [State.seqRule, hidle] using ⟨w, hnext, hdecode⟩
  | arm | disarm | lptake | tmask | tunmask | stat =>
    cases hexec
    simp [State.seqRule, hidle]

/-- Settles O18: the poll step, the turn and the accept steps each follow a row, and no other move writes SEQ. -/
theorem sequencerTransitions : Obligations.SequencerTransitions := by
  unfold Obligations.SequencerTransitions
  intro s t h
  cases stepCase_of_step h with
  | poll hnext hpolls =>
    obtain ⟨hwait, hms, -⟩ := State.pollsFirst_iff.1 hpolls
    exact ⟨by simp [hnext], fun _ => State.poll_seqRule (s := s.quiet) hwait hms⟩
  | tick hnext | adcDone v hnext | dropped w hnext | response hnext =>
    exact ⟨by simp [hnext], fun _ => by simpa using s.seqRule_self⟩
  | accept w i t hnext hidle hdecode hexec =>
    exact ⟨by simp [hnext], fun _ => exec_seqRule hnext hidle hdecode hexec⟩
  | reject w why hnext hidle => exact ⟨by simp [hnext], fun _ => by simp [State.seqRule, hidle]⟩
  | turn hnext =>
    refine ⟨by simp [hnext], fun _ => ?_⟩
    by_cases hidle : s.seq = .idle
    · rw [State.seqTurn_idle (by simpa using hidle)]
      simpa using s.seqRule_self
    · exact State.seqRule_taken hidle s.quiet.consume.seqTurn_seqRule
  | reset hnext => exact ⟨fun _ => rfl, fun hne => absurd hnext hne⟩

/-! ### No command while one is in progress (R106) -/

/-- A poll step that leaves the block in IDLE has responded. -/
theorem State.poll_idle_responds (hwait : s.seq.isWait = true) (h : s.poll.seq = .idle) : s.poll.respValid = true := by
  obtain ⟨-, hp⟩ | ⟨-, ⟨-, hp⟩ | ⟨-, hp⟩ | ⟨-, hp⟩⟩ := State.poll_cases hwait
  · rw [hp] at h
    exact absurd h (not_idle_of_isWait hwait)
  · rw [hp]; rfl
  · rw [hp]; rfl
  · rw [hp] at h; cases h

/-- So has a turn of the sequencer that ends a command. -/
theorem State.seqTurn_idle_responds (hbusy : s.seq ≠ .idle) (h : s.seqTurn.seq = .idle) :
    s.seqTurn.respValid = true := by
  obtain hp | ⟨hwait, -, hp⟩ | ⟨-, -, hp⟩ | ⟨-, -, hp⟩ := s.seqTurn_cases
  · exact absurd (by rwa [hp] at h) hbusy
  · rw [hp] at h ⊢
    exact State.poll_idle_responds hwait h
  · obtain ⟨-, hp'⟩ | ⟨-, hp'⟩ := s.conv1Step_cases <;> rw [hp, hp'] at h <;> cases h
  · obtain ⟨-, hp'⟩ | ⟨-, hp'⟩ := s.conv2Step_cases
    · rw [hp, hp'] at h
      cases h
    · rw [hp, hp']
      rfl

/-- The move is taken off the same way whether or not the output event is over. -/
theorem State.quiet_consume (s : State) : s.quiet.consume = { s.consume with adcStartOut := false } := by
  cases hinputs : s.inputs with
  | nil => rw [State.taken_nil hinputs]; simp [State.consume, hinputs]
  | cons e rest => rw [State.taken_cons hinputs]; simp [State.consume, hinputs]

/-- A word presented while a command is in progress is dropped. -/
theorem step_command_busy {w : CmdWord} (hnext : s.nextEvent = .command w) (hbusy : s.seq ≠ .idle) :
    step s = .next s.quiet.consume := by
  rw [step_event (by simp [hnext]), hnext, onEvent, presentWord, if_neg]
  simpa [State.cmdReady] using hbusy

/-- Settles O17: a word is dropped at once, and of the other moves only the poll step and the turn reach IDLE. -/
theorem noCommandWhileBusy : Obligations.NoCommandWhileBusy := by
  unfold Obligations.NoCommandWhileBusy
  refine ⟨fun s hbusy => by simpa [State.ports, State.cmdReady] using hbusy, fun s w hnext hbusy => ?_,
    fun s t hbusy hreset h => ?_⟩
  · rw [step_command_busy hnext hbusy]
    rw [State.quiet_consume]
  · cases stepCase_of_step h with
    | poll _ hpolls =>
      obtain ⟨hwait, -⟩ := State.pollsFirst_iff.1 hpolls
      exact ⟨by simp, by simp, State.poll_idle_responds (s := s.quiet) hwait⟩
    | tick | adcDone | dropped | response => exact ⟨by simp, by simp, fun hidle => absurd (by simpa using hidle) hbusy⟩
    | accept w i t _ hidle | reject w why _ hidle => exact absurd hidle hbusy
    | turn => exact ⟨by simp, by simp, State.seqTurn_idle_responds (by simpa using hbusy)⟩
    | reset hnext => exact absurd hnext hreset

end Sys2Proof.Machine
end

section
/-! Waits: the millisecond count along a run, the bounds of its length, and a wait under a closed gate (spec 41 R105, 43
R147): obligations O9, O14 and O15. -/

namespace Sys2Proof.Machine

variable {s m u t : State} {T : Nat}

/-! ### Tick steps counted by a run -/

theorem State.tickSteps_of_not_tick (h : s.nextEvent ≠ .tick) : s.tickSteps = 0 := by
  simp [State.tickSteps, State.takesTick, h]

theorem State.tickSteps_of_pollsFirst (h : s.pollsFirst = true) : s.tickSteps = 0 := by
  simp [State.tickSteps, State.takesTick, h]

theorem State.tickSteps_closed (h : s.tmask = true) : s.tickSteps = 0 := by
  simp [State.tickSteps, State.takesTick, h]

theorem State.tickSteps_open (hnext : s.nextEvent = .tick) (hpolls : s.pollsFirst = false) (hopen : s.tmask = false) :
    s.tickSteps = 1 := by
  simp [State.tickSteps, State.takesTick, hnext, hpolls, hopen]

/-! ### A closed gate (R147) -/

/-- What every state of a wait under a closed gate has kept since the state `s`: MS_FLAG serves one millisecond at
most. -/
structure MaskedSince (s u : State) : Prop where
  seq : u.seq = s.seq
  closed : u.tmask = true
  respValid : u.respValid = s.respValid
  unserved : u.msFlag = true → u.n = s.n ∧ 2 ≤ s.n.toNat
  count : s.n.toNat ≤ u.n.toNat + 1

/-- A step that leaves the registers of the wait keeps what was kept. -/
theorem MaskedSince.congr (h : MaskedSince s m) (hseq : u.seq = m.seq := by simp)
    (hmask : u.tmask = m.tmask := by simp) (hresp : u.respValid = m.respValid := by simp)
    (hms : u.msFlag = m.msFlag := by simp) (hn : u.n = m.n := by simp) : MaskedSince s u where
  seq := hseq.trans h.seq
  closed := hmask.trans h.closed
  respValid := hresp.trans h.respValid
  unserved := by rw [hms, hn]; exact h.unserved
  count := by rw [hn]; exact h.count

/-- The one poll step there can be leaves a millisecond to go. -/
theorem MaskedSince.poll (h : MaskedSince s m) (hms : m.msFlag = true) : MaskedSince s m.poll := by
  obtain ⟨hn, htwo⟩ := h.unserved hms
  have hpred := half_pred m.n (by rw [hn]; omega)
  have hmore : m.n ≠ 1 := by
    rintro h1
    rw [← hn, h1] at htwo
    exact absurd htwo (by decide)
  rw [State.poll_more hmore]
  exact {
    seq := h.seq
    closed := h.closed
    respValid := h.respValid
    unserved := nofun
    count := by simp only [State.countDown_n]; rw [hpred, hn]; omega }

theorem MaskedSince.step (h : MaskedSince s m) (hwait : s.seq.isWait = true) (hreset : m.nextEvent ≠ .reset)
    (hstep : step m = .next t) : MaskedSince s t ∧ m.tickSteps = 0 := by
  refine ⟨?_, State.tickSteps_closed h.closed⟩
  have hmwait : m.seq.isWait = true := by rwa [h.seq]
  have htaken : MaskedSince s m.quiet.consume := h.congr
  cases stepCase_of_step hstep with
  | poll _ hpolls =>
    have hopen := (State.pollsFirst_iff.1 hpolls).2.2.1
    rw [h.closed] at hopen
    cases hopen
  | tick =>
    rw [State.tickEvent_closed htaken.closed]
    exact htaken.congr
  | adcDone v => exact htaken.congr
  | accept w i t _ hidle | reject w why _ hidle => exact absurd hidle (not_idle_of_isWait hmwait)
  | dropped | response => exact htaken
  | turn =>
    rw [State.seqTurn_wait (by simpa using hmwait)]
    split
    case isTrue hms => exact htaken.poll hms
    case isFalse => exact htaken
  | reset hnext => exact absurd hnext hreset

theorem MaskedSince.run (hmask : s.tmask = true) (hwait : s.seq.isWait = true)
    (hn : s.msFlag = true → 2 ≤ s.n.toNat) (h : RunsTo (fun m => m.nextEvent ≠ .reset) s T u) :
    MaskedSince s u ∧ T = 0 := by
  induction h with
  | here => exact ⟨⟨rfl, hmask, rfl, fun hms => ⟨rfl, hn hms⟩, Nat.le_succ _⟩, rfl⟩
  | more _ hreset hstep ih =>
    obtain ⟨hkept, hT⟩ := ih
    obtain ⟨hkept', htick⟩ := hkept.step hwait hreset hstep
    exact ⟨hkept', by rw [hT, htick]⟩

/-- Settles O9: no step but the one poll step a set flag allows touches the wait, and a tick event only sets TPEND. -/
theorem maskedWaitNeverEnds : Obligations.MaskedWaitNeverEnds := by
  unfold Obligations.MaskedWaitNeverEnds
  intro s u T hmask hwait hn hrun
  obtain ⟨h, hT⟩ := MaskedSince.run hmask hwait hn hrun
  exact ⟨h.seq, h.closed, h.respValid, hT, h.count⟩

/-! ### The milliseconds of a wait (R105) -/

/-- Where a wait stands `T` tick steps after the state `s` of it: the clock has wrapped `(TICKCNT + T) div K` times, and
each wrap, with the flag `s` began with, has been served by a poll step or is MS_FLAG now. -/
structure WaitSince (s u : State) (T : Nat) : Prop where
  seq : u.seq = s.seq
  wait : u.seq.isWait = true
  gate : u.tmask = s.tmask
  count_pos : 1 ≤ u.n.toNat
  cfg : u.cfg = s.cfg
  tickCnt : u.tickCnt = (s.tickCnt + T) % s.cfg.ticksPerMs
  served : s.msFlag.toNat + (s.tickCnt + T) / s.cfg.ticksPerMs + u.n.toNat = s.n.toNat + u.msFlag.toNat

theorem WaitSince.here (hinv : s.Inv) (hwait : s.seq.isWait = true) : WaitSince s s 0 where
  seq := rfl
  wait := hwait
  gate := rfl
  count_pos := hinv.wait_pos hwait
  cfg := rfl
  tickCnt := (Nat.mod_eq_of_lt hinv.tickCnt_lt).symm
  served := by
    have h0 : (s.tickCnt + 0) / s.cfg.ticksPerMs = 0 := Nat.div_eq_of_lt hinv.tickCnt_lt
    omega

/-- A step that leaves the registers of the wait and the clock. -/
theorem WaitSince.congr (h : WaitSince s m T) (hseq : u.seq = m.seq := by simp)
    (hmask : u.tmask = m.tmask := by simp) (hn : u.n = m.n := by simp) (hcfg : u.cfg = m.cfg := by simp)
    (htick : u.tickCnt = m.tickCnt := by simp) (hms : u.msFlag = m.msFlag := by simp) : WaitSince s u T where
  seq := hseq.trans h.seq
  wait := by rw [hseq]; exact h.wait
  gate := hmask.trans h.gate
  count_pos := by rw [hn]; exact h.count_pos
  cfg := hcfg.trans h.cfg
  tickCnt := htick.trans h.tickCnt
  served := by rw [hn, hms]; exact h.served

/-- A poll step that does not end the wait serves the flag. -/
theorem WaitSince.poll (h : WaitSince s m T) (hms : m.msFlag = true) (hn : m.n ≠ 1) : WaitSince s m.poll T := by
  have hpos := h.count_pos
  have hpred := half_pred m.n hpos
  have hne : m.n.toNat ≠ 1 := fun h1 => hn (BitVec.eq_of_toNat_eq h1)
  have hserved := h.served
  rw [hms, Bool.toNat_true] at hserved
  rw [State.poll_more hn]
  refine ⟨h.seq, h.wait, h.gate, ?_, h.cfg, h.tickCnt, ?_⟩
  · simp only [State.countDown_n]
    omega
  · simp only [State.countDown_n, State.countDown_msFlag, Bool.toNat_false]
    omega

/-- A tick step counts, and where it wraps the clock it raises a flag that was clear. -/
theorem WaitSince.tickStep (h : WaitSince s m T) (hclear : m.clockWraps = true → m.msFlag = false) :
    WaitSince s m.tickStep (T + 1) := by
  have hK := s.cfg.ticksPerMs_pos
  have hserved := h.served
  have hwraps : m.clockWraps = true ↔ s.cfg.ticksPerMs ∣ s.tickCnt + T + 1 := by
    rw [State.clockWraps_iff, h.cfg, h.tickCnt, mod_add_one_eq_iff_dvd hK]
  have htick : m.tickStep.tickCnt = (s.tickCnt + (T + 1)) % s.cfg.ticksPerMs := by
    have hlt : m.tickCnt < m.cfg.ticksPerMs := by rw [h.cfg, h.tickCnt]; exact Nat.mod_lt _ hK
    rw [State.tickStep_tickCnt_mod hlt, h.cfg, h.tickCnt, Nat.mod_add_mod, Nat.add_assoc]
  refine ⟨by simpa using h.seq, by simpa using h.wait, by simpa using h.gate, by simpa using h.count_pos,
    by simpa using h.cfg, htick, ?_⟩
  rw [State.tickStep_n, State.tickStep_msFlag, ← Nat.add_assoc s.tickCnt]
  cases hw : m.clockWraps with
  | true =>
    rw [hclear hw, Bool.toNat_false] at hserved
    rw [Nat.succ_div_of_dvd (hwraps.1 hw), Bool.true_or, Bool.toNat_true]
    omega
  | false =>
    rw [Nat.succ_div_of_not_dvd (fun hdvd => by simp [hwraps.2 hdvd] at hw), Bool.false_or]
    exact hserved

/-- What the last poll step of a wait leads to. -/
theorem State.poll_last_ends (hwait : s.seq.isWait = true) (hn : s.n = 1) :
    (s.seq = .gkDebounce → s.poll.seq = .gkConv2) ∧
      (s.seq ≠ .gkDebounce → s.poll.seq = .idle ∧ s.poll.respValid = true) := by
  obtain ⟨hne, -⟩ | ⟨-, ⟨hs, h⟩ | ⟨hs, h⟩ | ⟨hs, h⟩⟩ := State.poll_cases hwait
  · exact absurd hn hne
  all_goals simp [h, hs]

/-- The last step of a wait: the poll step of its last millisecond, which is no tick step. -/
structure WaitEnds (m t : State) : Prop where
  flag : m.msFlag = true
  last : m.n = 1
  cleared : t.msFlag = false
  not_tick : m.tickSteps = 0
  debounced : m.seq = .gkDebounce → t.seq = .gkConv2
  responded : m.seq ≠ .gkDebounce → t.seq = .idle ∧ t.respValid = true

theorem WaitEnds.finished (h : WaitEnds m t) : t.seq.isWait = false := by
  by_cases hs : m.seq = .gkDebounce
  · rw [h.debounced hs]; rfl
  · rw [(h.responded hs).1]; rfl

/-- The poll step that guarantee (c) or the sequencer's turn takes in the last millisecond. -/
theorem WaitEnds.of_poll (hwait : m.seq.isWait = true) (hms : m.msFlag = true) (hn : m.n = 1)
    (hticks : m.tickSteps = 0) (hseq : s.seq = m.seq) (hn' : s.n = m.n) : WaitEnds m s.poll := by
  obtain ⟨hdebounced, hresponded⟩ := State.poll_last_ends (by rwa [hseq]) (hn'.trans hn)
  rw [hseq] at hdebounced hresponded
  exact ⟨hms, hn, State.poll_msFlag s, hticks, hdebounced, hresponded⟩

/-- Every step of a wait goes on with it or ends it. -/
theorem WaitSince.step (h : WaitSince s m T) (hreset : m.nextEvent ≠ .reset) (hstep : step m = .next t) :
    WaitSince s t (T + m.tickSteps) ∨ WaitEnds m t := by
  have htaken : WaitSince s m.quiet.consume T := h.congr
  have hmoved (hnot : m.nextEvent ≠ .tick) : WaitSince s m.quiet.consume (T + m.tickSteps) := by
    rwa [State.tickSteps_of_not_tick hnot]
  cases stepCase_of_step hstep with
  | poll _ hpolls =>
    have hms := (State.pollsFirst_iff.1 hpolls).2.1
    have hquiet : WaitSince s m.quiet T := h.congr
    by_cases hn : m.n = 1
    · exact .inr (.of_poll h.wait hms hn (State.tickSteps_of_pollsFirst hpolls) rfl rfl)
    · rw [State.tickSteps_of_pollsFirst hpolls]
      exact .inl (hquiet.poll hms hn)
  | tick hnext hpolls =>
    left
    cases hmask : m.tmask with
    | true =>
      rw [State.tickSteps_closed hmask, State.tickEvent_closed (by simpa using hmask)]
      exact htaken.congr
    | false =>
      rw [State.tickSteps_open hnext hpolls hmask, State.tickEvent_open (by simpa using hmask)]
      refine htaken.tickStep fun hw => ?_
      have hw : m.clockWraps = true := by simpa [State.clockWraps] using hw
      simpa [State.pollsFirst, h.wait, hmask, hw] using hpolls
  | adcDone v hnext => exact .inl (hmoved (by simp [hnext])).congr
  | accept w i t _ hidle | reject w why _ hidle => exact absurd hidle (not_idle_of_isWait h.wait)
  | dropped w hnext | response hnext => exact .inl (hmoved (by simp [hnext]))
  | turn hnext =>
    have hnot : m.nextEvent ≠ .tick := by simp [hnext]
    rw [State.seqTurn_wait (by simpa using h.wait)]
    split
    case isTrue hms =>
      by_cases hn : m.n = 1
      · exact .inr (.of_poll h.wait (by simpa using hms) hn (State.tickSteps_of_not_tick hnot) (by simp) (by simp))
      · exact .inl ((hmoved hnot).poll hms (by simpa using hn))
    case isFalse => exact .inl (hmoved hnot)
  | reset hnext => exact absurd hnext hreset

/-- A run of a wait is still in it, or its last step was the one that ended it. -/
theorem WaitSince.run (hinv : s.Inv) (hwait : s.seq.isWait = true) (h : RunsTo State.inWait s T u) :
    WaitSince s u T ∨ ∃ m, WaitSince s m T ∧ WaitEnds m u := by
  induction h with
  | here => exact .inl (.here hinv hwait)
  | @more m u T _ hin hstep ih =>
    obtain ⟨hmwait, hreset⟩ := hin
    obtain hm | ⟨m', -, hends⟩ := ih
    · refine (hm.step hreset hstep).imp_right fun hends => ⟨m, ?_, hends⟩
      rwa [hends.not_tick]
    · rw [hends.finished] at hmwait
      cases hmwait

/-! ### The bounds (R105) -/

theorem mul_eq_pred_mul_add {j : Nat} (hj : 1 ≤ j) (K : Nat) : j * K = (j - 1) * K + K := by
  rw [← Nat.succ_mul, Nat.succ_eq_add_one, Nat.sub_add_cancel hj]

theorem raiseTick_le {K c j : Nat} (hc : c < K) (h : j ≤ (c + T) / K) : raiseTick K c j ≤ T := by
  unfold raiseTick
  split
  · exact Nat.zero_le T
  · have hmul : j * K ≤ c + T := (Nat.le_div_iff_mul_le (by omega)).1 h
    have hsplit := mul_eq_pred_mul_add (j := j) (by omega) K
    omega

theorem lt_raiseTick {K c j : Nat} (hc : c < K) (h : (c + T) / K < j) : T + 1 ≤ raiseTick K c j := by
  have hj : 1 ≤ j := Nat.one_le_of_lt h
  have hmul : c + T < j * K := (Nat.div_lt_iff_lt_mul (by omega)).1 h
  have hsplit := mul_eq_pred_mul_add hj K
  unfold raiseTick
  rw [if_neg (by omega)]
  omega

theorem raiseTick_succ {K c j : Nat} (hj : 1 ≤ j) : raiseTick K c (j + 1) = raiseTick K c j + K := by
  have hsplit := mul_eq_pred_mul_add hj K
  unfold raiseTick
  rw [if_neg (by omega), if_neg (by omega), Nat.add_sub_cancel]
  omega

/-- A wait that goes on has not used up its milliseconds. -/
theorem WaitSince.upper (h : WaitSince s u T) (hinv : s.Inv) (hwait : s.seq.isWait = true) :
    (s.msFlag = false → T + 1 ≤ raiseTick s.cfg.ticksPerMs s.tickCnt s.n.toNat + s.cfg.ticksPerMs) ∧
      (s.msFlag = true → T + 1 ≤ raiseTick s.cfg.ticksPerMs s.tickCnt s.n.toNat) := by
  have hserved := h.served
  have hpos := h.count_pos
  have hflag : u.msFlag.toNat ≤ 1 := Bool.toNat_le _
  refine ⟨fun hms => ?_, fun hms => ?_⟩
  · rw [hms, Bool.toNat_false] at hserved
    rw [← raiseTick_succ (hinv.wait_pos hwait)]
    exact lt_raiseTick hinv.tickCnt_lt (by omega)
  · rw [hms, Bool.toNat_true] at hserved
    exact lt_raiseTick hinv.tickCnt_lt (by omega)

/-- A wait that ends has used them all. -/
theorem WaitSince.lower (h : WaitSince s m T) (hinv : s.Inv) (hends : WaitEnds m u) :
    (s.msFlag = false → raiseTick s.cfg.ticksPerMs s.tickCnt s.n.toNat ≤ T) ∧
      (s.msFlag = true → raiseTick s.cfg.ticksPerMs s.tickCnt (s.n.toNat - 1) ≤ T) := by
  have hserved := h.served
  have hone : m.n.toNat = 1 := by rw [hends.last]; rfl
  rw [hone, hends.flag, Bool.toNat_true] at hserved
  refine ⟨fun hms => ?_, fun hms => ?_⟩
  · rw [hms, Bool.toNat_false] at hserved
    have hused : s.n.toNat ≤ (s.tickCnt + T) / s.cfg.ticksPerMs := by omega
    exact raiseTick_le hinv.tickCnt_lt hused
  · rw [hms, Bool.toNat_true] at hserved
    have hused : s.n.toNat - 1 ≤ (s.tickCnt + T) / s.cfg.ticksPerMs := Nat.sub_le_of_le_add (by omega)
    exact raiseTick_le hinv.tickCnt_lt hused

/-- Settles O15: a run that is still in the wait has milliseconds left. -/
theorem waitEndsInTime : Obligations.WaitEndsInTime := by
  unfold Obligations.WaitEndsInTime
  intro s u T hinv hwait hrun huwait
  obtain h | ⟨m, -, hends⟩ := WaitSince.run hinv hwait hrun
  · exact h.upper hinv hwait
  · rw [hends.finished] at huwait
    cases huwait

/-- Settles O14: the state before the last step is still in the wait, with one millisecond left and its flag set. -/
theorem waitLengthBounds : Obligations.WaitLengthBounds := by
  unfold Obligations.WaitLengthBounds
  intro s u T hinv hwait hrun hover
  obtain h | ⟨m, h, hends⟩ := WaitSince.run hinv hwait hrun
  · rw [h.wait] at hover
    cases hover
  · obtain ⟨hupper0, hupper1⟩ := h.upper hinv hwait
    obtain ⟨hlower0, hlower1⟩ := h.lower hinv hends
    exact ⟨hends.cleared, fun hms => ⟨hlower0 hms, hupper0 hms⟩, fun hms => ⟨hlower1 hms, hupper1 hms⟩⟩

end Sys2Proof.Machine
end

section
/-! GETKEY: its conversions, its frame and a stable reading (spec 42_key_decoder R121, R123, R127, R128): obligations
O21, O23, O26 and O27. -/

namespace Sys2Proof.Machine

variable {s t u : State} {v : Byte} {T : Nat}

/-! ### Conversions (R121, R123) -/

theorem State.adcDone_busy (h : s.adcBusy = true) (v : Byte) :
    s.adcDone v = { s with adcData := v, adcBusy := false } :=
  if_pos h

theorem State.Inv.seqInv (h : s.Inv) : s.SeqInv := (State.inv_iff.1 h).2.2

/-- A poll step requests a conversion only as the end of a debounce, which starts it. -/
theorem State.poll_adcStart (hwait : s.seq.isWait = true) (hquiet : s.adcStartOut = false)
    (h : s.poll.adcStartOut = true) : s.poll.adcBusy = true := by
  obtain ⟨-, hp⟩ | ⟨-, ⟨-, hp⟩ | ⟨-, hp⟩ | ⟨-, hp⟩⟩ := State.poll_cases hwait
  case inr.inr.inr => rw [hp]; rfl
  all_goals simp [hp, hquiet] at h

/-- The sequencer's turn requests a conversion only where none runs, and starts it. -/
theorem State.seqTurn_adcStart (hinv : s.SeqInv) (hquiet : s.adcStartOut = false) (h : s.seqTurn.adcStartOut = true) :
    s.adcBusy = false ∧ s.seqTurn.adcBusy = true := by
  obtain hp | ⟨hwait, -, hp⟩ | ⟨-, hdone, hp⟩ | ⟨-, hdone, hp⟩ := s.seqTurn_cases
  · simp [hp, hquiet] at h
  · rw [hp] at h ⊢
    exact ⟨hinv.not_busy_wait hwait, State.poll_adcStart hwait hquiet h⟩
  · obtain ⟨-, hp'⟩ | ⟨-, hp'⟩ := s.conv1Step_cases
    · simp [hp, hp', hquiet] at h
    · exact ⟨hdone, by rw [hp, hp']; rfl⟩
  · obtain ⟨-, hp'⟩ | ⟨-, hp'⟩ := s.conv2Step_cases
    · exact ⟨hdone, by rw [hp, hp']; rfl⟩
    · simp [hp, hp', hquiet] at h

/-- Of the accept steps GETKEY's alone requests a conversion, and it starts it. -/
theorem exec_adcStart {i : Instr} (hquiet : s.adcStartOut = false) (hexec : exec i s = .next t)
    (h : t.adcStartOut = true) : t.adcBusy = true := by
  cases i with
  | getkey => cases hexec; rfl
  | play d a b =>
    obtain ⟨-, rfl⟩ | ⟨-, rfl⟩ | rfl := exec_play_cases hexec <;> simp [State.toneLoaded, hquiet] at h
  | sleep m => obtain ⟨-, rfl⟩ | ⟨-, rfl⟩ := exec_sleep_cases hexec <;> simp [hquiet] at h
  | arm | disarm | lptake | tmask | tunmask | stat => cases hexec; simp [hquiet] at h

/-- Settles O21: the completion by ADC_BUSY; a request comes from GETKEY in IDLE, from a debounce or from a conversion
step, and the invariant or the step's own condition says that no conversion runs there. -/
theorem conversionCompletes : Obligations.ConversionCompletes := by
  unfold Obligations.ConversionCompletes
  refine ⟨fun s v => ⟨fun h => State.adcDone_busy h v, fun h => State.adcDone_not_busy h v⟩, fun s t hinv h hout => ?_⟩
  have hquiet : s.quiet.consume.adcStartOut = false := by simp
  cases stepCase_of_step h with
  | poll _ hpolls =>
    have hwait := (State.pollsFirst_iff.1 hpolls).1
    exact ⟨hinv.seqInv.not_busy_wait hwait, State.poll_adcStart (s := s.quiet) hwait rfl hout⟩
  | accept w i t _ hidle _ hexec =>
    exact ⟨hinv.seqInv.not_busy (by simp [hidle]) (by simp [hidle]), exec_adcStart hquiet hexec hout⟩
  | turn => simpa using State.seqTurn_adcStart hinv.seqInv.taken hquiet hout
  | tick | adcDone | reject | dropped | response | reset => simp at hout

/-- Settles O23: the last poll step copies ADC_DATA; in the wait no conversion runs, so a completion is ignored. -/
theorem debounceLatchesReading : Obligations.DebounceLatchesReading := by
  unfold Obligations.DebounceLatchesReading
  refine ⟨fun s hs hms hn => ?_, fun s t hinv hs hreset h => ?_⟩
  · rw [State.seqTurn_poll_debounce hs hms hn]
    exact ⟨rfl, rfl, rfl, rfl, rfl⟩
  · have hdone : s.adcBusy = false := hinv.seqInv.not_busy (by simp [hs]) (by simp [hs])
    cases stepCase_of_step h with
    | poll | tick | dropped | response | turn => simp
    | adcDone v => simp [State.adcDone_not_busy (s := s.quiet.consume) (by simpa using hdone)]
    | accept w i t _ hidle | reject w why _ hidle => simp [hs] at hidle
    | reset hnext => exact absurd hnext hreset

/-! ### The frame of a GETKEY in progress (R127) -/

/-- The sequencer's turn writes OUT_EN in PLAY_WAIT only. -/
theorem State.seqTurn_outEn (hs : s.seq ≠ .playWait) : s.seqTurn.outEn = s.outEn := by
  obtain hp | ⟨hwait, -, hp⟩ | ⟨-, -, hp⟩ | ⟨-, -, hp⟩ := s.seqTurn_cases
  · rw [hp]
  · obtain ⟨-, hp'⟩ | ⟨-, ⟨hplay, -⟩ | ⟨-, hp'⟩ | ⟨-, hp'⟩⟩ := State.poll_cases hwait
    case inr.inl => exact absurd hplay hs
    all_goals rw [hp, hp']; rfl
  · rw [hp, State.conv1Step_outEn]
  · rw [hp, State.conv2Step_outEn]

/-- Settles O26: a GETKEY's own steps are conversion and poll steps; a word is dropped, and a completion writes the
converter's registers only. -/
theorem getkeyLeavesSynthesizer : Obligations.GetkeyLeavesSynthesizer := by
  unfold Obligations.GetkeyLeavesSynthesizer
  intro s t hinv hgetkey htick hreset h
  have hplay : s.seq ≠ .playWait := by rintro hs; simp [hs] at hgetkey
  have hidle : s.seq ≠ .idle := by rintro hs; simp [hs] at hgetkey
  have hoff : s.outEn = false := by
    simpa using mt hinv.outEn_iff.1 hplay
  have hturn : s.quiet.consume.seqTurn.outEn = s.outEn := by
    simpa using State.seqTurn_outEn (s := s.quiet.consume) (by simpa using hplay)
  cases stepCase_of_step h with
  | poll hnext | tick hnext => exact absurd hnext htick
  | adcDone | dropped | response | turn => simp [SameOsc, SameOutput, SameLongPress, SameGate, hoff, hturn]
  | accept w i t _ hs | reject w why _ hs => exact absurd hs hidle
  | reset hnext => exact absurd hnext hreset

/-! ### A stable reading (R128) -/

/-- A GETKEY in progress all of whose conversions so far gave `v`. -/
structure Reading (c : Config) (v : Byte) (u : State) : Prop where
  cfg : u.cfg = c
  in_getkey : u.seq = .gkConv1 ∨ u.seq = .gkDebounce ∨ u.seq = .gkConv2
  data : u.adcBusy = false → u.adcData = v
  debounce : u.seq = .gkDebounce → u.adcBusy = false
  latched : u.seq = .gkConv2 → u.s1 = v

/-- A GETKEY that has responded with the key of `v`. -/
structure Answered (c : Config) (v : Byte) (u : State) : Prop where
  idle : u.seq = .idle
  respValid : u.respValid = true
  resp : u.resp = respWord .ok (classify c v)
  key : u.key = classify c v
  s1 : u.s1 = v
  s2 : u.s2 = v

namespace Reading

variable {c : Config}

theorem not_idle (h : Reading c v u) : u.seq ≠ .idle := by
  intro hs
  have := h.in_getkey
  simp [hs] at this

theorem congr (h : Reading c v s) (hcfg : t.cfg = s.cfg := by simp) (hseq : t.seq = s.seq := by simp)
    (hbusy : t.adcBusy = s.adcBusy := by simp) (hdata : t.adcData = s.adcData := by simp)
    (hs1 : t.s1 = s.s1 := by simp) : Reading c v t where
  cfg := hcfg.trans h.cfg
  in_getkey := by rw [hseq]; exact h.in_getkey
  data := by rw [hbusy, hdata]; exact h.data
  debounce := by rw [hseq, hbusy]; exact h.debounce
  latched := by rw [hseq, hs1]; exact h.latched

theorem taken (h : Reading c v s) : Reading c v s.quiet.consume := h.congr

theorem adcDone (h : Reading c v s) : Reading c v (s.adcDone v) := by
  unfold State.adcDone
  split
  · exact { h with data := fun _ => rfl, debounce := fun _ => rfl }
  · exact h

theorem firstConversion (hcfg : s.cfg = c) : Reading c v s.firstConversion where
  cfg := hcfg
  in_getkey := .inl rfl
  data := nofun
  debounce := nofun
  latched := nofun

theorem secondConversion (hcfg : s.cfg = c) (hdata : s.adcData = v) : Reading c v s.secondConversion where
  cfg := hcfg
  in_getkey := .inr (.inr rfl)
  data := nofun
  debounce := nofun
  latched := fun _ => hdata

theorem poll (h : Reading c v s) (hwait : s.seq.isWait = true) : Reading c v s.poll := by
  have hs : s.seq = .gkDebounce := by
    obtain hs | hs | hs := h.in_getkey
    · simp [hs, Seq.isWait] at hwait
    · exact hs
    · simp [hs, Seq.isWait] at hwait
  by_cases hn : s.n = 1
  · rw [State.poll_debounce hs hn]
    exact secondConversion h.cfg (h.data (h.debounce hs))
  · rw [State.poll_more hn]
    exact h.congr

theorem conv1Step (h : Reading c v s) (hdone : s.adcBusy = false) : Reading c v s.conv1Step := by
  obtain ⟨-, hp⟩ | ⟨-, hp⟩ := s.conv1Step_cases
  · rw [hp]
    exact { h with in_getkey := .inr (.inl rfl), debounce := fun _ => hdone, latched := nofun }
  · rw [hp]
    exact secondConversion h.cfg (h.data hdone)

/-- The two readings agree, so the second conversion step responds. -/
theorem conv2Step (h : Reading c v s) (hs : s.seq = .gkConv2) (hdone : s.adcBusy = false) :
    Answered c v s.conv2Step := by
  have hdata := h.data hdone
  have hs1 := h.latched hs
  rw [State.conv2Step_key (hs1.trans hdata.symm), hdata, h.cfg]
  exact ⟨rfl, rfl, rfl, rfl, hs1, rfl⟩

theorem seqTurn (h : Reading c v s) : Reading c v s.seqTurn ∨ Answered c v s.seqTurn := by
  obtain hp | ⟨hwait, -, hp⟩ | ⟨-, hdone, hp⟩ | ⟨hs, hdone, hp⟩ := s.seqTurn_cases
  · rw [hp]; exact .inl h
  · rw [hp]; exact .inl (h.poll hwait)
  · rw [hp]; exact .inl (h.conv1Step hdone)
  · rw [hp]; exact .inr (h.conv2Step hs hdone)

/-- Every step of a GETKEY with a stable reading goes on with it or ends it with its key. -/
theorem step (h : Reading c v s) (hreset : s.nextEvent ≠ .reset) (hstable : ∀ x, s.nextEvent = .adcDone x → x = v)
    (hstep : step s = .next t) : Reading c v t ∨ Answered c v t := by
  have htaken := h.taken
  cases stepCase_of_step hstep with
  | poll _ hpolls =>
    have hquiet : Reading c v s.quiet := h.congr
    exact .inl (hquiet.poll (State.pollsFirst_iff.1 hpolls).1)
  | tick => exact .inl (h.congr)
  | adcDone x hnext =>
    rw [hstable x hnext]
    exact .inl htaken.adcDone
  | accept w i t _ hidle | reject w why _ hidle => exact absurd hidle h.not_idle
  | dropped | response => exact .inl htaken
  | turn => exact htaken.seqTurn
  | reset hnext => exact absurd hnext hreset

end Reading

/-- A run of a GETKEY with a stable reading is still in it, or it has its key. -/
theorem runsTo_reading {c : Config} (ht : Reading c v t) (h : RunsTo (State.inGetkey v) t T u) :
    Reading c v u ∨ Answered c v u := by
  induction h with
  | here => exact .inl ht
  | more _ hin hstep ih =>
    obtain ⟨hbusy, hreset, hstable⟩ := hin
    obtain hm | hm := ih
    · exact hm.step hreset hstable hstep
    · exact absurd hm.idle hbusy

/-- Settles O27: along the run every reading latched is `v`, so the first comparison finds them equal. -/
theorem stableReadingGivesKey : Obligations.StableReadingGivesKey := by
  unfold Obligations.StableReadingGivesKey
  intro s t u v T hexec hrun
  rw [exec_getkey] at hexec
  cases hexec
  have hstart : Reading s.cfg v s.beginAccept.firstConversion := Reading.firstConversion rfl
  obtain h | h := runsTo_reading hstart hrun
  · exact ⟨fun hs hdone => (h.latched hs).trans (h.data hdone).symm, fun hs => absurd hs h.not_idle⟩
  · exact ⟨fun hs => by simp [h.idle] at hs, fun _ => ⟨h.respValid, h.resp, h.key, h.s1, h.s2⟩⟩

end Sys2Proof.Machine
end

section
/-! Runs under the progress guarantees (spec 20_memory R54, 41 R103, 42 R128): obligations O49 and O50. -/

namespace Sys2Proof.Machine

variable {s m u : State} {e : Event} {T : Nat}

/-! ### One move that comes now -/

/-- The state with this one move listed. -/
def State.offered (s : State) (e : Event) : State := { s with inputs := [e] }

/-- Taking a move is the step that finds it listed, with the list put back. -/
theorem step_of_take (h : s.take e = .next u) :
    ∃ t, step (s.offered e) = .next t ∧ u = { t with inputs := s.inputs } := by
  unfold State.take at h
  split at h
  case h_1 t ht => exact ⟨t, ht, (Host.Outcome.next.inj h).symm⟩
  all_goals cases h

theorem State.Inv.take (h : s.Inv) (htake : s.take e = .next u) : u.Inv := by
  obtain ⟨t, hstep, rfl⟩ := step_of_take htake
  have ht : t.Inv := State.Inv.step (s := s.offered e) { h with } hstep
  exact { ht with }

theorem WaitSince.take (h : WaitSince s m T) (hreset : e ≠ .reset) (htake : m.take e = .next u) :
    WaitSince s u (T + (m.offered e).tickSteps) ∨ WaitEnds (m.offered e) u := by
  obtain ⟨t, hstep, rfl⟩ := step_of_take htake
  have hm : WaitSince s (m.offered e) T := h.congr rfl rfl rfl rfl rfl rfl
  exact (hm.step hreset hstep).imp (fun ht => ht.congr) fun hends => { hends with }

theorem Reading.take {c : Config} {v : Byte} (h : Reading c v s) (hreset : e ≠ .reset)
    (hstable : ∀ x, e = .adcDone x → x = v) (htake : s.take e = .next u) : Reading c v u ∨ Answered c v u := by
  obtain ⟨t, hstep, rfl⟩ := step_of_take htake
  have hs : Reading c v (s.offered e) := h.congr rfl rfl rfl rfl rfl
  exact (hs.step hreset hstable hstep).imp (fun ht => ht.congr) fun ht => { ht with }

/-- While a command is in progress no word is accepted, so TMASK stays. -/
theorem take_tmask_busy (hbusy : s.seq ≠ .idle) (hreset : e ≠ .reset) (htake : s.take e = .next u) :
    u.tmask = s.tmask := by
  obtain ⟨t, hstep, rfl⟩ := step_of_take htake
  change t.tmask = (s.offered e).tmask
  cases stepCase_of_step hstep with
  | poll | tick | adcDone | dropped | response | turn => simp
  | accept w i t _ hidle | reject w why _ hidle => exact absurd hidle hbusy
  | reset hnext => exact absurd hnext hreset

/-- A conversion state is left by the sequencer's turn after the conversion, and no conversion begins before. -/
theorem take_conv_waits (hconv : s.seq = .gkConv1 ∨ s.seq = .gkConv2) (hreset : e ≠ .reset)
    (hturn : e = .seqTurn → s.adcBusy = true) (htake : s.take e = .next u) :
    u.seq = s.seq ∧ (s.adcBusy = false → u.adcBusy = false) := by
  have hidle : s.seq ≠ .idle := by rintro hs; simp [hs] at hconv
  obtain ⟨t, hstep, rfl⟩ := step_of_take htake
  change t.seq = (s.offered e).seq ∧ ((s.offered e).adcBusy = false → t.adcBusy = false)
  cases stepCase_of_step hstep with
  | poll _ hpolls =>
    have hwait := (State.pollsFirst_iff.1 hpolls).1
    obtain hs | hs := hconv <;> simp [State.offered, hs, Seq.isWait] at hwait
  | tick | dropped | response => simp
  | adcDone v => exact ⟨by simp, fun _ => (State.adcDone_writes _ v).1⟩
  | accept w i t _ hs | reject w why _ hs => exact absurd hs hidle
  | turn hnext =>
    have hbusy : (s.offered e).quiet.consume.adcBusy = true := by simpa [State.offered] using hturn hnext
    have hstays : (s.offered e).quiet.consume.seqTurn = (s.offered e).quiet.consume := by
      obtain hs | hs := hconv
      · rw [State.seqTurn_conv1 (by simpa [State.offered] using hs), if_pos hbusy]
      · rw [State.seqTurn_conv2 (by simpa [State.offered] using hs), if_pos hbusy]
    simp [hstays]
  | reset hnext => exact absurd hnext hreset

/-! ### Fair runs -/

/-- An infinite run without reset under the progress guarantees. -/
structure FairRun (st : Nat → State) (mv : Nat → Event) : Prop where
  run : IsRun st mv
  fair : Fair st mv
  no_reset : ∀ k, mv k ≠ .reset

/-- No step from the state at `k` on is the last one of the wait it stands in. -/
def WaitNeverEnds (st : Nat → State) (mv : Nat → Event) (k : Nat) : Prop :=
  ∀ j T, k ≤ j → WaitSince (st k) (st j) T → ¬WaitEnds ((st j).offered (mv j)) (st (j + 1))

namespace FairRun

variable {st : Nat → State} {mv : Nat → Event} {k : Nat}

theorem inv (h : FairRun st mv) (h0 : (st 0).Inv) (k : Nat) : (st k).Inv := by
  induction k with
  | zero => exact h0
  | succ k ih => exact ih.take (h.run k)

/-! ### Waits (R54(a), R103) -/

/-- A wait that never ends goes on with no fewer tick steps. -/
theorem wait_goes_on (h : FairRun st mv) (hnever : WaitNeverEnds st mv k)
    {i : Nat} (hki : k ≤ i) (hi : WaitSince (st k) (st i) T) {j : Nat} (hij : i ≤ j) :
    ∃ T', T ≤ T' ∧ WaitSince (st k) (st j) T' := by
  induction j, hij using Nat.le_induction with
  | base => exact ⟨T, le_rfl, hi⟩
  | succ j hij ih =>
    obtain ⟨T', hT, hj⟩ := ih
    obtain hnext | hends := hj.take (h.no_reset j) (h.run j)
    · exact ⟨_, hT.trans (Nat.le_add_right _ _), hnext⟩
    · exact absurd hends (hnever j _ (hki.trans hij) hj)

/-- At an open gate, with tick events that keep coming, it would perform any number of tick steps. -/
theorem wait_ticks (h : FairRun st mv) (hinv : (st k).Inv) (hwait : (st k).seq.isWait = true)
    (hopen : (st k).tmask = false) (hnever : WaitNeverEnds st mv k) (B : Nat) :
    ∃ i T, k ≤ i ∧ B ≤ T ∧ WaitSince (st k) (st i) T := by
  induction B with
  | zero => exact ⟨k, 0, le_rfl, le_rfl, .here hinv hwait⟩
  | succ B ih =>
    obtain ⟨i, T, hki, hB, hi⟩ := ih
    obtain ⟨j, hij, htick, hpolls⟩ := h.fair.ticks i
    obtain ⟨T', hT, hj⟩ := h.wait_goes_on hnever hki hi hij
    have hone : ((st j).offered (mv j)).tickSteps = 1 :=
      State.tickSteps_open htick hpolls (hj.gate.trans hopen)
    obtain hnext | hends := hj.take (h.no_reset j) (h.run j)
    · exact ⟨j + 1, _, (hki.trans hij).trans (Nat.le_succ j), by omega, hnext⟩
    · exact absurd hends (hnever j _ (hki.trans hij) hj)

/-- So it ends. -/
theorem wait_ends (h : FairRun st mv) (hinv : (st k).Inv) (hwait : (st k).seq.isWait = true)
    (hopen : (st k).tmask = false) :
    ∃ j, k ≤ j ∧ ((st k).seq = .gkDebounce → (st (j + 1)).seq = .gkConv2) ∧
      ((st k).seq ≠ .gkDebounce → (st (j + 1)).seq = .idle ∧ (st (j + 1)).respValid = true) := by
  by_contra hnone
  have hnever : WaitNeverEnds st mv k := by
    intro j T hkj hj hends
    have hseq : (st k).seq = ((st j).offered (mv j)).seq := hj.seq.symm
    refine hnone ⟨j, hkj, ?_, ?_⟩
    · rw [hseq]; exact hends.debounced
    · rw [hseq]; exact hends.responded
  obtain ⟨i, T, -, hmany, hi⟩ := h.wait_ticks hinv hwait hopen hnever
    (raiseTick (st k).cfg.ticksPerMs (st k).tickCnt (st k).n.toNat + (st k).cfg.ticksPerMs)
  obtain ⟨hfew0, hfew1⟩ := hi.upper hinv hwait
  cases hms : (st k).msFlag with
  | false => have := hfew0 hms; omega
  | true => have := hfew1 hms; omega

/-! ### Conversions (R54(b)) -/

/-- Until the sequencer takes its step after the conversion, a conversion state stands, and a conversion that is over
stays over. -/
theorem conv_stands (h : FairRun st mv) (hconv : (st k).seq = .gkConv1 ∨ (st k).seq = .gkConv2)
    (hnever : ∀ j, k ≤ j → (st j).seq = (st k).seq → mv j = .seqTurn → (st j).adcBusy = true)
    {i : Nat} (hki : k ≤ i) (hi : (st i).seq = (st k).seq) {j : Nat} (hij : i ≤ j) :
    (st j).seq = (st k).seq ∧ ((st i).adcBusy = false → (st j).adcBusy = false) := by
  induction j, hij using Nat.le_induction with
  | base => exact ⟨hi, id⟩
  | succ j hij ih =>
    obtain ⟨hj, hover⟩ := ih
    obtain ⟨hseq, hbusy⟩ := take_conv_waits (by rwa [hj]) (h.no_reset j) (hnever j (hki.trans hij) hj) (h.run j)
    exact ⟨hseq.trans hj, fun hdone => hbusy (hover hdone)⟩

/-- The sequencer takes its step in every conversion state, after the conversion. -/
theorem conv_turn (h : FairRun st mv) (hconv : (st k).seq = .gkConv1 ∨ (st k).seq = .gkConv2) :
    ∃ j, k ≤ j ∧ (st j).seq = (st k).seq ∧ mv j = .seqTurn ∧ (st j).adcBusy = false := by
  by_contra hnone
  have hnever : ∀ j, k ≤ j → (st j).seq = (st k).seq → mv j = .seqTurn → (st j).adcBusy = true := by
    intro j hkj hj hturn
    by_contra hdone
    exact hnone ⟨j, hkj, hj, hturn, by simpa using hdone⟩
  obtain ⟨i, hki, hdone⟩ : ∃ i, k ≤ i ∧ (st i).adcBusy = false := by
    cases hbusy : (st k).adcBusy with
    | false => exact ⟨k, le_rfl, hbusy⟩
    | true => exact h.fair.conversions k hbusy
  have hi := (h.conv_stands hconv hnever le_rfl rfl hki).1
  obtain ⟨j, hij, hturn | hreset⟩ := h.fair.sequencer i (by rwa [hi]) hdone
  · obtain ⟨hj, hover⟩ := h.conv_stands hconv hnever hki hi hij
    have hbusy := hnever j (hki.trans hij) hj hturn
    rw [hover hdone] at hbusy
    cases hbusy
  · exact h.no_reset j hreset

end FairRun

/-- Settles O49: a wait that never ended would perform more tick steps than the upper bound of R105. -/
theorem fairRunsEndWaits : Obligations.FairRunsEndWaits := by
  unfold Obligations.FairRunsEndWaits
  intro st mv hrun hfair hreset hinv hwait hopen
  obtain ⟨j, -, hdebounced, hresponded⟩ := FairRun.wait_ends ⟨hrun, hfair, hreset⟩ hinv hwait hopen
  exact ⟨j + 1, hdebounced, hresponded⟩

/-! ### A GETKEY with a stable reading (R128) -/

/-- The state that a move taken now acts on. -/
def State.unlisted (s : State) : State := { s.quiet with inputs := [] }

theorem take_turn (htake : s.take .seqTurn = .next u) : u = { s.unlisted.seqTurn with inputs := s.inputs } :=
  (Host.Outcome.next.inj (State.take_seqTurn.symm.trans htake)).symm

/-- After the first conversion GETKEY waits out the debounce or starts the second conversion. -/
theorem take_turn_conv1 (hs : s.seq = .gkConv1) (hdone : s.adcBusy = false) (htake : s.take .seqTurn = .next u) :
    u.seq = .gkDebounce ∨ u.seq = .gkConv2 := by
  rw [take_turn htake, State.seqTurn_conv1_done (s := s.unlisted) hs hdone]
  obtain ⟨-, hp⟩ | ⟨-, hp⟩ := s.unlisted.conv1Step_cases
  · rw [hp]; exact .inl rfl
  · rw [hp]; exact .inr rfl

/-- After the second conversion of a stable reading it has its key. -/
theorem Reading.take_turn_conv2 {c : Config} {v : Byte} (h : Reading c v s) (hs : s.seq = .gkConv2)
    (hdone : s.adcBusy = false) (htake : s.take .seqTurn = .next u) : Answered c v u := by
  have hunlisted : Reading c v s.unlisted := h.congr rfl rfl rfl rfl rfl
  rw [take_turn htake, State.seqTurn_conv2_done (s := s.unlisted) hs hdone]
  exact { hunlisted.conv2Step hs hdone with }

/-- While it has no key, a GETKEY with a stable reading at an open gate goes on. -/
theorem FairRun.reading_goes_on {st : Nat → State} {mv : Nat → Event} {c : Config} {v : Byte} (h : FairRun st mv)
    (hstable : ∀ k x, mv k = .adcDone x → x = v) (h0 : Reading c v (st 0)) (hopen : (st 0).tmask = false)
    (hnone : ∀ k, ¬Answered c v (st k)) (k : Nat) : Reading c v (st k) ∧ (st k).tmask = false := by
  induction k with
  | zero => exact ⟨h0, hopen⟩
  | succ k ih =>
    obtain ⟨hk, hmask⟩ := ih
    obtain hnext | hanswer := hk.take (h.no_reset k) (hstable k) (h.run k)
    · exact ⟨hnext, (take_tmask_busy hk.not_idle (h.no_reset k) (h.run k)).trans hmask⟩
    · exact absurd hanswer (hnone _)

/-- It gets its key: after the first conversion and the debounce there is a second conversion, and the step after that
finds the two readings equal. -/
theorem FairRun.answered {st : Nat → State} {mv : Nat → Event} {v : Byte} (h : FairRun st mv)
    (hstable : ∀ k x, mv k = .adcDone x → x = v) (hinv : (st 0).Inv) (hs : (st 0).seq = .gkConv1)
    (h0 : Reading (st 0).cfg v (st 0)) (hopen : (st 0).tmask = false) : ∃ k, Answered (st 0).cfg v (st k) := by
  by_contra hnone
  have hgo := h.reading_goes_on hstable h0 hopen (not_exists.1 hnone)
  obtain ⟨i, -, hi, hturn, hdone⟩ := h.conv_turn (.inl hs)
  have hrun := h.run i
  rw [hturn] at hrun
  obtain ⟨k, hk⟩ : ∃ k, (st k).seq = .gkConv2 := by
    obtain hdeb | hconv2 := take_turn_conv1 (hi.trans hs) hdone hrun
    · obtain ⟨j, -, hj, -⟩ := h.wait_ends (h.inv hinv (i + 1)) (by rw [hdeb]; rfl) (hgo (i + 1)).2
      exact ⟨j + 1, hj hdeb⟩
    · exact ⟨i + 1, hconv2⟩
  obtain ⟨j, -, hj, hturn, hdone⟩ := h.conv_turn (.inr hk)
  have hrun := h.run j
  rw [hturn] at hrun
  exact hnone ⟨j + 1, (hgo j).1.take_turn_conv2 (hj.trans hk) hdone hrun⟩

/-- Settles O50: from a running first conversion on, every value read is `v`. -/
theorem fairRunsEndGetkey : Obligations.FairRunsEndGetkey := by
  unfold Obligations.FairRunsEndGetkey
  intro st mv v hrun hfair hreset hstable hinv hs hbusy hopen
  have h0 : Reading (st 0).cfg v (st 0) :=
    { cfg := rfl
      in_getkey := .inl hs
      data := by simp [hbusy]
      debounce := by simp [hs]
      latched := by simp [hs] }
  obtain ⟨k, hk⟩ := FairRun.answered ⟨hrun, hfair, hreset⟩ hstable hinv hs h0 hopen
  exact ⟨k, hk.idle, hk.respValid, hk.resp⟩

end Sys2Proof.Machine
end

section
/-! Well-formed parameters (spec 00_scope R1, 20_memory R41, R44): obligation O52. -/

namespace Sys2Proof

variable {p : Params}

/-! ### The waveform table (20_memory R41) -/

theorem zipWith_all_iff {f : Byte → Byte → Nat} {q : Nat → Bool} (xs ys : List Byte) :
    (List.zipWith f xs ys).all q = true ↔
      ∀ (i : Nat) (x y : Byte), xs[i]? = some x → ys[i]? = some y → q (f x y) = true := by
  rw [List.all_eq_true]
  constructor
  · intro h i x y hx hy
    exact h _ (List.mem_of_getElem? (i := i) (by simp [List.getElem?_zipWith, hx, hy]))
  · intro h n hn
    obtain ⟨i, hi⟩ := List.getElem?_of_mem hn
    obtain ⟨x, y, hx, hy, rfl⟩ := List.getElem?_zipWith_eq_some.1 hi
    exact h i x y hx hy

/-- Half a cycle on in a table of 256 entries. -/
theorem Params.waveOpposite_getElem? (hlen : p.wave.length = 256) {i : Nat} (hi : i < 256) :
    p.waveOpposite[i]? = p.wave[(i + 128) % 256]? := by
  have hrot : p.waveOpposite = p.wave.rotate 128 := (List.rotate_eq_drop_append_take (by omega)).symm
  rw [hrot, List.getElem?_rotate (by omega), hlen]

theorem Params.waveWf_iff :
    p.waveWf = true ↔
      p.wave.length = 256 ∧ p.wave[0]? = some p.mid ∧
        ∀ i x y, p.wave[i]? = some x → p.wave[(i + 128) % 256]? = some y → x.toNat + y.toNat = 2 * p.mid.toNat := by
  simp only [Params.waveWf, Bool.and_eq_true, beq_iff_eq, zipWith_all_iff, List.head?_eq_getElem?, and_assoc]
  refine and_congr_right fun hlen => and_congr_right fun _ => forall_congr' fun i => forall_congr' fun x =>
    forall_congr' fun y => imp_congr_right fun hx => ?_
  have hi : i < p.wave.length := (List.getElem?_eq_some_iff.1 hx).1
  rw [Params.waveOpposite_getElem? hlen (by omega)]

/-! ### The band table (20_memory R44) -/

theorem bandsContiguous_iff (bs : List Band) :
    bandsContiguous bs = true ↔
      ∀ j b c, bs[j]? = some b → bs[j + 1]? = some c → c.lo.toNat = b.hi.toNat + 1 := by
  induction bs with
  | nil => simp [bandsContiguous]
  | cons b rest ih =>
    cases rest with
    | nil => simp [bandsContiguous]
    | cons c rest =>
      simp only [bandsContiguous, Bool.and_eq_true, beq_iff_eq, ih]
      constructor
      · rintro ⟨hbc, hrest⟩ j x y hx hy
        cases j with
        | zero => simp_all
        | succ j => exact hrest j x y hx hy
      · intro h
        exact ⟨h 0 b c rfl rfl, fun j x y hx hy => h (j + 1) x y hx hy⟩

theorem count_key_eq (bs : List Band) (k : Nat) :
    (bs.map fun b => b.key.toNat).count k = (bs.filter fun b => b.key.toNat == k).length := by
  rw [List.count_eq_countP, List.countP_map, List.countP_eq_length_filter]
  rfl

/-- Each code `1` to `m` once, counted from 0 or from 1. -/
theorem keys_once_iff (bs : List Band) (m : Nat) :
    (List.range m).all (fun k => (bs.filter fun b => b.key.toNat == k + 1).length == 1) = true ↔
      ∀ k, 1 ≤ k → k ≤ m → (bs.map fun b => b.key.toNat).count k = 1 := by
  simp only [List.all_eq_true, List.mem_range, beq_iff_eq, ← count_key_eq]
  constructor
  · intro h k hpos hle
    obtain ⟨j, rfl⟩ : ∃ j, k = j + 1 := ⟨k - 1, by omega⟩
    exact h j (by omega)
  · intro h k hk
    exact h (k + 1) (by omega) (by omega)

theorem Params.bandsWf_iff (hkeys : p.nKeys = 13) :
    p.bandsWf = true ↔
      p.bands.length = 13 ∧ (∀ b ∈ p.bands, b.lo.toNat ≤ b.hi.toNat ∧ p.adcFloor.toNat ≤ b.lo.toNat) ∧
        (∀ j b c, p.bands[j]? = some b → p.bands[j + 1]? = some c → c.lo.toNat = b.hi.toNat + 1) ∧
        ∀ k, 1 ≤ k → k ≤ 13 → (p.bands.map fun b => b.key.toNat).count k = 1 := by
  rw [Params.bandsWf, hkeys, Bool.and_eq_true, Bool.and_eq_true, Bool.and_eq_true, keys_once_iff, bandsContiguous_iff]
  simp only [beq_iff_eq, List.all_eq_true, Bool.and_eq_true, decide_eq_true_eq, and_assoc]

/-! ### The table of R1 -/

theorem Params.wf_iff :
    p.wf = true ↔
      p.nTab = 256 ∧ p.wSample = 8 ∧ 1 ≤ p.mid.toNat ∧ p.mid.toNat ≤ 254 ∧ p.waveWf = true ∧ p.frac ≤ 23 ∧
        1000 ≤ p.fTick ∧ p.mix = .avg ∧ 1 ≤ p.longpressTime.toNat ∧ p.nKeys = 13 ∧ p.bandsWf = true := by
  simp only [Params.wf, Bool.and_eq_true, beq_iff_eq, decide_eq_true_eq, and_assoc]

theorem Params.ticksPerMs_pos (h : p.wf = true) : 1 ≤ p.ticksPerMs := Config.ticksPerMs_pos ⟨p, h⟩

end Sys2Proof

namespace Sys2Proof.Machine

/-- Settles O52: each check of `Params.wf` is its constraint; powering on tests it, and a configuration carries it. -/
theorem illFormedConfigRefused : Obligations.IllFormedConfigRefused := by
  unfold Obligations.IllFormedConfigRefused
  refine ⟨fun p => ?_, fun p h => dif_neg (by simp [h]), fun c => dif_pos c.ok, fun p =>
    ⟨rfl, rfl, rfl, rfl, rfl, Params.ticksPerMs_pos⟩⟩
  rw [Params.wf_iff, Params.waveWf_iff]
  by_cases hkeys : p.nKeys = 13
  · rw [Params.bandsWf_iff hkeys]
  · simp only [hkeys, false_and, and_false]

end Sys2Proof.Machine
end

section
/-! The host contract: chunks of the store, the header, and the calls of the control loop (spec 45_host_contract R160,
R169 to R173): obligations O57 to O60. -/

namespace Sys2Proof.Machine

/-! ### Mode codes (R162) -/

section Codes

variable {codes : ModeCodes}

/-- A mode's byte codes that mode: the bytes are distinct. -/
theorem ModeCodes.modeOf_byteOf (h : codes.wf = true) (mode : ToneMode) :
    codes.modeOf (codes.byteOf mode) = some mode := by
  simp only [ModeCodes.wf, decide_eq_true_eq, List.nodup_cons, List.mem_cons, not_or] at h
  cases mode <;> simp only [ModeCodes.byteOf, ModeCodes.modeOf, beq_iff_eq] <;> grind

/-- The erase sentinel codes no mode: it is distinct from all of them. -/
theorem ModeCodes.modeOf_eraseSentinel (h : codes.wf = true) : codes.modeOf eraseSentinel = none := by
  simp only [ModeCodes.wf, decide_eq_true_eq, List.nodup_cons, List.mem_cons, not_or] at h
  simp only [ModeCodes.modeOf, beq_iff_eq]
  grind

end Codes

/-! ### Blocks of the store (R169, R170) -/

section Blocks

variable {m m' : Store} {a : Nat}

theorem Store.exists_write (h : a < storeSize) (x : Byte) : ∃ m', m.write a x = some m' := ⟨_, if_pos h⟩

/-- A block write inside the store succeeds, keeps the canonical form, and writes its bytes and no other. -/
theorem Store.writeBlock_spec (xs : List Byte) (hwf : m.wf = true) (hin : a + xs.length ≤ storeSize) :
    ∃ m', m.writeBlock a xs = some m' ∧ m'.wf = true ∧ (∀ i, i < xs.length → m'.read (a + i) = xs[i]?) ∧
      ∀ b, b < a ∨ a + xs.length ≤ b → m'.read b = m.read b := by
  induction xs generalizing m a with
  | nil => exact ⟨m, rfl, hwf, nofun, fun _ _ => rfl⟩
  | cons x xs ih =>
    rw [List.length_cons] at hin
    obtain ⟨m1, hm1⟩ := Store.exists_write (m := m) (a := a) (by omega) x
    obtain ⟨m2, hm2, hwf2, hread2, hframe2⟩ := ih (Store.write_wf hwf hm1) (a := a + 1) (by omega)
    refine ⟨m2, by simp [Store.writeBlock, hm1, hm2], hwf2, fun i hi => ?_, fun b hb => ?_⟩
    · cases i with
      | zero => rw [hframe2 _ (by omega), Store.read_write hwf hm1]; simp
      | succ i =>
        rw [List.length_cons] at hi
        rw [Nat.add_comm i 1, ← Nat.add_assoc, hread2 i (by omega), Nat.add_comm 1 i, List.getElem?_cons_succ]
    · rw [List.length_cons] at hb
      rw [hframe2 b (by omega), Store.read_write hwf hm1, if_neg (by omega)]

/-- A block read gives the bytes that single reads give. -/
theorem Store.readBlock_of_reads (xs : List Byte) (h : ∀ i, i < xs.length → m.read (a + i) = xs[i]?) :
    m.readBlock a xs.length = some xs := by
  induction xs generalizing a with
  | nil => rfl
  | cons x xs ih =>
    have hhead : m.read a = some x := h 0 (Nat.succ_pos _)
    have htail : m.readBlock (a + 1) xs.length = some xs := ih fun i hi => by
      rw [Nat.add_assoc, Nat.add_comm 1 i]
      exact h (i + 1) (Nat.succ_lt_succ hi)
    rw [List.length_cons, Store.readBlock, hhead, htail]

/-- A block that is read begins with its first byte. -/
theorem Store.readBlock_succ_head {b x : Byte} {n : Nat} {xs : List Byte} (hb : m.read a = some b)
    (h : m.readBlock a (n + 1) = some (x :: xs)) : x = b := by
  rw [Store.readBlock, hb] at h
  cases hrest : m.readBlock (a + 1) n with
  | none => simp [hrest] at h
  | some ys =>
    obtain ⟨rfl, -⟩ : b = x ∧ ys = xs := by simpa [hrest] using h
    rfl

end Blocks

/-! ### Chunks (R169 to R171) -/

section Chunks

variable {m : Store} {codes : ModeCodes} {mode : ToneMode} {key : Byte}

theorem chunkAddress_of_key (h1 : 1 ≤ key.toNat) (h12 : key.toNat ≤ 12) :
    chunkAddress key = some (chunkBase + (key.toNat - 1) * chunkSize) :=
  if_pos ⟨h1, h12⟩

/-- The image of a chunk: the mode, the keys, and the erase sentinel in the rest of the payload. -/
theorem chunkImage_eq (b : Byte) {keys : List Byte} (h : keys.length ≤ chunkPayload) :
    chunkImage b keys = b :: (keys ++ List.replicate (chunkPayload - keys.length) eraseSentinel) := by
  have hsize : chunkSize - (b :: keys).length = chunkPayload - keys.length := by
    simp [chunkSize, chunkPayload]
  have hle : chunkPayload - keys.length ≤ chunkSize := by simp only [chunkPayload, chunkSize]; omega
  have hfits : (b :: keys).length ≤ chunkSize := by
    simp only [chunkPayload] at h
    simp only [List.length_cons, chunkSize]
    omega
  rw [chunkImage, padChunk, List.take_append, List.take_of_length_le hfits, List.take_replicate, hsize,
    Nat.min_eq_left hle, List.cons_append]

theorem chunkImage_length (b : Byte) {keys : List Byte} (h : keys.length ≤ chunkPayload) :
    (chunkImage b keys).length = chunkSize := by
  rw [chunkImage_eq b h, List.length_cons, List.length_append, List.length_replicate, Nat.add_sub_cancel' h]
  rfl

/-- The keys end at the first erase sentinel. -/
theorem chunkKeys_padded {keys : List Byte} (h : ∀ k ∈ keys, k ≠ eraseSentinel) (n : Nat) :
    chunkKeys (keys ++ List.replicate n eraseSentinel) = keys := by
  have hkeys : ∀ k ∈ keys, (k != eraseSentinel) = true := by simpa using h
  have hpad : (List.replicate n eraseSentinel).takeWhile (· != eraseSentinel) = [] := by
    cases n <;> simp [List.replicate_succ]
  rw [chunkKeys, List.takeWhile_append_of_pos hkeys, hpad, List.append_nil]

/-- Settles O57: the block write puts the image in the chunk, where the block read finds it. -/
theorem chunkRoundTrip : Obligations.ChunkRoundTrip := by
  unfold Obligations.ChunkRoundTrip
  intro m codes mode key r hwf hcodes h1 h12 hlen hkeys
  have haddr := chunkAddress_of_key h1 h12
  have himage := chunkImage_length (codes.byteOf mode) hlen
  obtain ⟨m', hwrite, hwf', hread, hframe⟩ := Store.writeBlock_spec (a := chunkBase + (key.toNat - 1) * chunkSize)
    (chunkImage (codes.byteOf mode) r.keys) hwf (by
      rw [himage]
      simp only [chunkBase, chunkSize, storeSize]
      omega)
  have hblock := Store.readBlock_of_reads _ hread
  rw [himage] at hblock hframe
  refine ⟨m', by rw [Store.storeChunk, Store.writeChunk, haddr]; exact hwrite, hwf', ?_, hframe⟩
  rw [chunkImage_eq _ hlen] at hblock
  simp [Store.readChunk, haddr, hblock, ModeCodes.modeOf_byteOf hcodes, chunkKeys_padded hkeys]

/-- Settles O58: the byte codes no mode, so the chunk reads as no chunk. -/
theorem invalidChunkIsSilent : Obligations.InvalidChunkIsSilent := by
  unfold Obligations.InvalidChunkIsSilent
  intro m codes t len key b hcodes h1 h12 hb hinvalid
  have hnone : codes.modeOf b = none := by
    obtain rfl | h := hinvalid
    · exact ModeCodes.modeOf_eraseSentinel hcodes
    · exact h
  have hchunk : m.readChunk codes key = none := by
    rw [Store.readChunk, chunkAddress_of_key h1 h12]
    simp only
    split
    next x payload hblock =>
      obtain rfl : x = b := Store.readBlock_succ_head hb hblock
      rw [hnone, Option.map_none]
    next => rfl
  rw [Store.playback, hchunk]

end Chunks

/-! ### The header (R172) -/

theorem startupMode_fst (codes : ModeCodes) (b : Byte) : (startupMode codes b).1 = (codes.modeOf b).getD .mf := by
  unfold startupMode
  split <;> simp [*]

theorem startupLength_fst (l : ToneLengths) (b : Byte) :
    (startupLength l b).1 = (l.lengthOf b).getD l.fastMs := by
  unfold startupLength
  split <;> simp [*]

theorem ToneLengths.lengthOf_eraseSentinel {l : ToneLengths} (h : l.wf = true) : l.lengthOf eraseSentinel = none := by
  simp only [ToneLengths.wf, Bool.and_eq_true, bne_iff_ne] at h
  obtain ⟨⟨-, hfast⟩, hslow⟩ := h
  simp [ToneLengths.lengthOf, hfast.symm, hslow.symm]

/-- Settles O59: each header byte is decoded alone; the erase sentinel codes neither a mode nor a length. -/
theorem headerFallsBack : Obligations.HeaderFallsBack := by
  unfold Obligations.HeaderFallsBack
  intro c p l hwf
  simp only [HostParams.wf, Bool.and_eq_true] at hwf
  obtain ⟨⟨⟨⟨⟨hcodes, -⟩, hlengths⟩, -⟩, -⟩, -⟩ := hwf
  have hshorter : p.lengths.fastMs.toNat < p.lengths.slowMs.toNat := by
    simp only [ToneLengths.wf, Bool.and_eq_true, decide_eq_true_eq] at hlengths
    obtain ⟨⟨⟨hlt, -⟩, -⟩, -⟩ := hlengths
    exact hlt
  refine ⟨startupMode_fst _ _, startupLength_fst _ _, hshorter, rfl, fun hmode hlength => ?_⟩
  have hm : startupMode p.codes eraseSentinel = (.mf, true) := by
    rw [startupMode, ModeCodes.modeOf_eraseSentinel hcodes]
  have hn : startupLength p.lengths eraseSentinel = (p.lengths.fastMs, true) := by
    rw [startupLength, ToneLengths.lengthOf_eraseSentinel hlengths]
  simp [Loop.startup, Loop.goTo, hmode, hlength, hm, hn]

/-! ### A call and its response (R160, R173) -/

/-- Settles O60: each clause is the host's move, or reset's, on the loop as it stands. -/
theorem hostWaitsForResponse : Obligations.HostWaitsForResponse := by
  unfold Obligations.HostWaitsForResponse
  refine fun p x => ⟨fun hwaits hnone => ?_, fun hwaits hresp => ?_, fun i rest b hfree htodo hidle htake => ?_,
    fun b htake => ?_⟩
  · simp [Product.hostMove, hwaits, hnone]
  · rw [Product.hostMove, if_pos hwaits, if_pos hresp, State.take_response]
    rfl
  · have hready : x.block.cmdReady = true := by simp [State.cmdReady, hidle]
    simp [Product.hostMove, hfree, htodo, hready, htake, stepWith, Loop.called]
  · change stepWith (Loop.boot p x.loop.store) (x.block.take .reset) = _
    rw [htake]
    rfl

end Sys2Proof.Machine
end
